-- ==== Sys2Proof/Word.lean ====
section
/-! DEFINITION. The word types of HFSM (spec/00_scope.md §4, §5): 8-bit bytes, 32-bit words (registers, host data),
64-bit totals, 18-bit host byte addresses and 36-bit frequency sums. All arithmetic is unsigned (rule R8). -/

namespace Sys2Proof

/-- A byte of one of the four memories (20_memory.md R47). -/
abbrev Byte := BitVec 8

/-- A host-visible register, a command word or a unit of host data: 32 bits (10_state.md R11, 30_encoding.md R69). -/
abbrev Word := BitVec 32

/-- A host byte address: 18 bits (20_memory.md R48). -/
abbrev HostAddr := BitVec 18

/-- A frequency sum: 36 bits (00_scope.md R8, 42_tree.md R93). -/
abbrev FreqSum := BitVec 36

end Sys2Proof
end

