-- ==== Sys2Proof/Syntax.lean ====
section
/-! DEFINITION. The command set of HFSM: one constructor for every row of spec/opcode_table.json (30_encoding.md R70). -/

namespace Sys2Proof

/-- A command, the block's "instruction" (00_scope.md §6). The only operand field is K (30_encoding.md R69). K is a channel
COUNT and is kept as a number; that it fits its 4-bit field is a check of WellFormed.lean. -/
inductive Instr where
  /-- NOP, OP 0x00 (45_control.md R135). -/
  | nop
  /-- PARSE, OP 0x01 (41_parse.md R86). -/
  | parse
  /-- BUILD_TREE, OP 0x02 (42_tree.md R102). -/
  | buildTree
  /-- GEN_TABLES, OP 0x03 (43_tables.md R112). -/
  | genTables
  /-- DECODE K, OP 0x04 (44_decode.md R116). -/
  | decode (k : Nat)
  /-- TREE_DECODE, OP 0x05 (44_decode.md R130). -/
  | treeDecode
  /-- HEAP_ORDER, OP 0x06 (42_tree.md R101). -/
  | heapOrder
  /-- DECODE_PACKET K, OP 0x07 (45_control.md R137). -/
  | decodePacket (k : Nat)
  /-- CLEAR, OP 0x08 (45_control.md R138). -/
  | clear
  deriving DecidableEq, Repr

end Sys2Proof
end

