-- ==== Sys2Proof/WellFormed.lean ====
section
/-! DEFINITION. Which command terms an encoding exists for (30_encoding.md R69, R71), and which ones an assembler may write (R78). -/

namespace Sys2Proof

/-- The channel count a command names, for the two commands that have the operand (30_encoding.md R70, "uses K"). -/
def Instr.channelCount : Instr → Option Nat
  | .nop | .parse | .buildTree | .genTables | .treeDecode | .heapOrder | .clear => none
  | .decode k | .decodePacket k => some k

/-- CHECK 1 (R69, R71): the channel count fits the 4-bit field [11:8]. -/
def Instr.countFits (i : Instr) : Bool :=
  match i.channelCount with
  | none => true
  | some k => decide (k < 16)

/-- A well-formed command: every operand fits its field. K = 0 and K > K_MAX are well-formed words, which the block answers
with E_BADARG (R71). -/
def Instr.wf (i : Instr) : Bool := i.countFits

/-- CHECK 2 (R78): an assembler writes K from 1 to 15 only. -/
def Instr.assemblable (i : Instr) : Bool :=
  match i.channelCount with
  | none => true
  | some k => decide (1 ≤ k ∧ k ≤ 15)

end Sys2Proof
end

