-- ==== Sys2Proof/Decode.lean ====
section
/-! DEFINITION. The command word CMD32 (30_encoding.md R69 to R74): the decoder, total on every 32-bit word and rejecting by name,
the encoder, and the opcode table of the spec as rows of match and mask. -/

namespace Sys2Proof

/-- Why a word is no command: the three conditions of 30_encoding.md R72. -/
inductive DecodeError where
  /-- OP is in 0x09–0xFF. -/
  | reservedOpcode (op : Byte)
  /-- RSV, bits [31:12], is not 0. -/
  | reservedBits
  /-- K is not 0 and OP is neither DECODE nor DECODE_PACKET. -/
  | channelCount
  deriving DecidableEq, Repr

/-- OP = bits [7:0] (R69). -/
def opField (w : Word) : Byte := w.extractLsb' 0 8

/-- K = bits [11:8] (R69), zero-extended, not scaled (R71). -/
def kField (w : Word) : Nat := (w.extractLsb' 8 4).toNat

/-- RSV = bits [31:12] (R69). -/
def rsvField (w : Word) : BitVec 20 := w.extractLsb' 12 20

/-- A command without the K operand: its K field must be 0 (R69, R72). -/
def withoutCount (k : Nat) (i : Instr) : Except DecodeError Instr :=
  if k = 0 then .ok i else .error .channelCount

/-- The opcode map of R70. -/
def decodeOpcode (op : Byte) (k : Nat) : Except DecodeError Instr :=
  match op.toNat with
  | 0x00 => withoutCount k .nop
  | 0x01 => withoutCount k .parse
  | 0x02 => withoutCount k .buildTree
  | 0x03 => withoutCount k .genTables
  | 0x04 => .ok (.decode k)
  | 0x05 => withoutCount k .treeDecode
  | 0x06 => withoutCount k .heapOrder
  | 0x07 => .ok (.decodePacket k)
  | 0x08 => withoutCount k .clear
  | _ => .error (.reservedOpcode op)

/-- The decoder: every 32-bit word is a command or is rejected by name (R72). It looks at one word and at nothing else (R74). -/
def decodeWord (w : Word) : Except DecodeError Instr :=
  if rsvField w = 0 then decodeOpcode (opField w) (kField w) else .error .reservedBits

/-- The opcode of a command (R70). It is also what STATUS.LAST_OP shows after the command (10_state.md R18). -/
def Instr.opcode : Instr → Byte
  | .nop => 0x00
  | .parse => 0x01
  | .buildTree => 0x02
  | .genTables => 0x03
  | .decode _ => 0x04
  | .treeDecode => 0x05
  | .heapOrder => 0x06
  | .decodePacket _ => 0x07
  | .clear => 0x08

/-- The encoder: the command word `OP | (k << 8)`, with k = 0 for a command without K (R78). -/
def encode (i : Instr) : Word :=
  i.opcode.setWidth 32 ||| (BitVec.ofNat 32 (i.channelCount.getD 0) <<< 8)

/-- A row of the opcode table: the word matches when `word & mask = pattern` (R70, spec/opcode_table.json). -/
structure OpcodeRow where
  mnemonic : String
  pattern : Word
  mask : Word
  deriving DecidableEq, Repr

/-- Whether a word matches a row. -/
def OpcodeRow.matches (r : OpcodeRow) (w : Word) : Bool := w &&& r.mask == r.pattern

/-- The nine rows of R70 and spec/opcode_table.json. -/
def opcodeRows : List OpcodeRow :=
  [ ⟨"NOP", 0x00000000, 0xFFFFFFFF⟩,
    ⟨"PARSE", 0x00000001, 0xFFFFFFFF⟩,
    ⟨"BUILD_TREE", 0x00000002, 0xFFFFFFFF⟩,
    ⟨"GEN_TABLES", 0x00000003, 0xFFFFFFFF⟩,
    ⟨"DECODE", 0x00000004, 0xFFFFF0FF⟩,
    ⟨"TREE_DECODE", 0x00000005, 0xFFFFFFFF⟩,
    ⟨"HEAP_ORDER", 0x00000006, 0xFFFFFFFF⟩,
    ⟨"DECODE_PACKET", 0x00000007, 0xFFFFF0FF⟩,
    ⟨"CLEAR", 0x00000008, 0xFFFFFFFF⟩ ]

/-- The mnemonic of a command (R70). -/
def Instr.mnemonic : Instr → String
  | .nop => "NOP"
  | .parse => "PARSE"
  | .buildTree => "BUILD_TREE"
  | .genTables => "GEN_TABLES"
  | .decode _ => "DECODE"
  | .treeDecode => "TREE_DECODE"
  | .heapOrder => "HEAP_ORDER"
  | .decodePacket _ => "DECODE_PACKET"
  | .clear => "CLEAR"

/-- The word whose low `nbits` bits are `w` and whose other bits are 0. -/
def tableWord (nbits w : Nat) : Word := BitVec.ofNat 32 (w % 2 ^ nbits)

/-- What the decoder reads from an instruction of `nbits` bits whose bits are `w` (every higher bit 0). -/
def decodeTableWord (nbits w : Nat) : Option Instr :=
  match decodeWord (tableWord nbits w) with
  | .ok i => some i
  | .error _ => none

end Sys2Proof
end

