-- ==== Sys2Proof/Config.lean ====
section
/-! DEFINITION. What an implementation of HFSM fixes, and the free values.

* The fixed limits of 00_scope.md §4 (MAX_SYMBOLS, MAX_NODES, MAX_STATES, MAX_EMIT, the sizes of TREE_MEM and TABLE_MEM).
* The three OPEN parameters PKT_BYTES, OUT_BYTES and K_MAX (00_scope.md R7, 92_eei_decisions.md D5): a record `Params`
  that every State carries unchanged (log 1), so that a statement holds for every hardware of the family.
* The free values (`opaque`, without a body): the bytes and symbol-table entries that the spec calls unspecified
  (93_implementation_defined.md U1 to U5; logs 3 and 4). Nothing in Lean can tell their values. -/

namespace Sys2Proof
namespace Config

/-- MAX_SYMBOLS: a packet has at most 12 symbols (00_scope.md R4). -/
def maxSymbols : Nat := 12

/-- MAX_NODES = 2·MAX_SYMBOLS − 1: the tree has at most 23 nodes (00_scope.md R5). -/
def maxNodes : Nat := 23

/-- MAX_STATES = MAX_SYMBOLS − 1: at most 11 tables (00_scope.md R5). -/
def maxStates : Nat := 11

/-- MAX_EMIT: a slot emits at most 8 symbols (00_scope.md R6). -/
def maxEmit : Nat := 8

/-- SLOT_BYTES: a table slot has 16 bytes (43_tables.md R107). -/
def slotBytes : Nat := 16

/-- TREE_MEM has 23 nodes × 4 bytes = 92 bytes (20_memory.md R47). -/
def treeBytes : Nat := 92

/-- TABLE_MEM has 11 states × 256 slots × 16 bytes = 45056 bytes (20_memory.md R47). -/
def tableBytes : Nat := 45056

/-- The three parameters that stay open, fixed for one hardware (00_scope.md R7). -/
structure Params where
  /-- PKT_BYTES, the size of PKT_MEM. -/
  pktBytes : Nat
  /-- OUT_BYTES, the size of OUT_MEM. -/
  outBytes : Nat
  /-- K_MAX, the number of channel units. -/
  kMax : Nat
  deriving DecidableEq, Repr

/-- The bounds that rule R7 sets: 120 ≤ PKT_BYTES ≤ 65536, 12 ≤ OUT_BYTES ≤ 65536, 1 ≤ K_MAX ≤ 15. -/
abbrev Params.Ok (p : Params) : Prop :=
  (120 ≤ p.pktBytes ∧ p.pktBytes ≤ 65536) ∧ (12 ≤ p.outBytes ∧ p.outBytes ≤ 65536) ∧ (1 ≤ p.kMax ∧ p.kMax ≤ 15)

/-- The reference values of 92_eei_decisions.md D5: 65536, 65536 and 4. -/
def reference : Params := { pktBytes := 65536, outBytes := 65536, kMax := 4 }

/-- FREE VALUE (logs 3 and 5; 93_implementation_defined.md U1, U2, U4, U5): the byte that draw number `draw` gives at memory offset
`offset`. It has no body: a claim about it holds for every value. -/
opaque freeByte (draw offset : Nat) : Byte

/-- FREE VALUE (log 4; 93_implementation_defined.md U3): the frequency that draw number `draw` leaves in SYMTAB[`j`] when the
symbol table becomes meaningless. -/
opaque freeFrequency (draw j : Nat) : Word

/-- FREE VALUE (log 4; 93_implementation_defined.md U3): the symbol that draw number `draw` leaves in SYMTAB[`j`] when the symbol
table becomes meaningless. -/
opaque freeSymbol (draw j : Nat) : Byte

end Config
end Sys2Proof
end

