-- ==== Sys2Proof/Machine/State.lean ====
section
/-! DEFINITION. The state of HFSM as plain data: the host-visible registers (10_state.md R11), the internal state (R39 to R44), the
four memories (20_memory.md R47), the RST pin, the host port and the model's own counter of free draws. -/

namespace Sys2Proof
namespace Machine

/-- The pipeline phase (10_state.md R20). The values 4 to 15 are never taken. -/
inductive Phase where
  /-- 0: nothing is valid; the packet has not been parsed, or has changed since. -/
  | empty
  /-- 1: the header registers and SYMTAB are valid. -/
  | parsed
  /-- 2: as parsed, and TREE_MEM, NODE_COUNT, STATE_COUNT, MAX_CODE_LEN are valid. -/
  | tree
  /-- 3: as tree, and TABLE_MEM is valid. -/
  | tables
  deriving DecidableEq, Repr

/-- The error codes of 60_exceptions.md R142. The codes 9 to 255 are never written. -/
inductive ErrCode where
  /-- 0: the command succeeded. -/
  | ok
  /-- 1, E_TRUNCATED: a declared length exceeds the buffer (41_parse.md R88). -/
  | truncated
  /-- 2, E_SYMTAB: the symbol count is 0, 1 or above 12 (41_parse.md R87). -/
  | symtab
  /-- 3, E_CORRUPT: a slot or a node fails its defensive check (44_decode.md R118, R130). -/
  | corrupt
  /-- 4, E_LENGTH: the bitstream ends before the D-th symbol (44_decode.md R117). -/
  | length
  /-- 5, E_OUTSIZE: D exceeds OUT_BYTES (41_parse.md R89). -/
  | outSize
  /-- 6, E_SEQ: the phase requirement is not met (60_exceptions.md R144). -/
  | seq
  /-- 7, E_BADCMD: the command word is illegal (30_encoding.md R72). -/
  | badCmd
  /-- 8, E_BADARG: K is out of range (30_encoding.md R71). -/
  | badArg
  deriving DecidableEq, Repr

/-- SYMTAB[j] = (freq_j : 32 bits, sym_j : 8 bits) (10_state.md R39). -/
structure SymEntry where
  freq : Word
  sym : Byte
  deriving DecidableEq, Repr

/-- A heap entry (f, ref): a 36-bit frequency and a node reference, the index of a node of the node pool; leaves have the indices
0..N−1 and internal nodes N..2N−2 (42_tree.md R93). -/
structure HeapEntry where
  f : FreqSum
  ref : Nat
  deriving DecidableEq, Repr

/-- A node of the node pool (10_state.md R41, 42_tree.md R97). -/
inductive PoolNode where
  | leaf (sym : Byte)
  | internal (left right : Nat)
  deriving DecidableEq, Repr

/-- A table slot as DECODE reads it (43_tables.md R107): the emitted symbols, the next state and the end-of-symbol mask. The count
is the number of symbols. -/
structure Slot where
  syms : List Byte
  next : Nat
  mask : Byte
  deriving DecidableEq, Repr

/-- The private storage of one channel unit (10_state.md R43): for each byte of its segment, in order, the slot it looked up
(SPEC_E) and the state after that byte (SPEC_S). -/
structure Channel where
  specE : List Slot
  specS : List Nat
  deriving DecidableEq, Repr

/-- The command sequencer (10_state.md R44): it takes the place of a program counter. -/
inductive Sequencer where
  | idle
  | running (c : Word)
  deriving DecidableEq, Repr

/-- What happens next at the block's boundary. The list of these in the state says which agent moves next, so that every
interleaving of the host with the running command is one list (10_state.md R9, 70_reset_and_hazards.md R164, R168; log 2). -/
inductive Event where
  /-- A host read transaction of n bytes at address a (20_memory.md R51). -/
  | read (n : Nat) (a : HostAddr)
  /-- A host write transaction of the low n bytes of v at address a (20_memory.md R51). -/
  | write (n : Nat) (a : HostAddr) (v : Word)
  /-- RST is asserted (70_reset_and_hazards.md R157). -/
  | assertRst
  /-- RST is released (70_reset_and_hazards.md R157). -/
  | releaseRst
  /-- The command sequencer's turn: a running command completes before the next host transaction. -/
  | sequencer
  deriving DecidableEq, Repr

/-- What the host port answered to the last transaction: whether it was an error response, and the read data (0 for a write, an
error response or a dropped access; 20_memory.md R52, R55). -/
structure Response where
  err : Bool
  data : Word
  deriving DecidableEq, Repr

/-- One memory (20_memory.md R47) as the bytes written since it last became unspecified: (offset, byte) pairs with strictly rising
offsets. An offset that is not listed has no written value; reading it gives the free value of draw number `era` (log 3). -/
structure Memory where
  era : Nat
  cells : List Host.Cell
  deriving DecidableEq, Repr

/-- The fields of STATUS (10_state.md R18) but BUSY, which is 1 exactly when the sequencer is running (R44; `State.busy`). -/
structure Status where
  /-- DONE, bit 1, W1C. -/
  done : Bool
  /-- ERR, bit 2, W1C. -/
  err : Bool
  /-- CMD_DROP, bit 3, W1C. -/
  cmdDrop : Bool
  /-- ACC_DROP, bit 4, W1C. -/
  accDrop : Bool
  /-- BUS_ERR, bit 5, W1C. -/
  busErr : Bool
  /-- PHASE, bits [11:8] (R20). -/
  phase : Phase
  /-- ERR_CODE, bits [23:16] (60_exceptions.md R142). -/
  errCode : ErrCode
  /-- LAST_OP, bits [31:24]. -/
  lastOp : Byte
  deriving DecidableEq, Repr

/-- The header registers that PARSE latches (10_state.md R25 to R29). -/
structure Header where
  /-- HDR_TOTAL_LO (R25). -/
  totalLo : Word
  /-- HDR_TOTAL_HI (R25). -/
  totalHi : Word
  /-- HDR_NSYM, N (R26). -/
  nsym : Word
  /-- HDR_BITS, B (R27). -/
  bits : Word
  /-- HDR_ENC_LEN, E (R28). -/
  encLen : Word
  /-- HDR_DEC_LEN, D (R29). -/
  decLen : Word
  deriving DecidableEq, Repr

/-- The registers that BUILD_TREE writes (10_state.md R30 to R32). -/
structure TreeCounts where
  /-- NODE_COUNT (R30). -/
  nodes : Word
  /-- STATE_COUNT (R31). -/
  states : Word
  /-- MAX_CODE_LEN (R32). -/
  maxCodeLen : Word
  deriving DecidableEq, Repr

/-- The decode result registers (10_state.md R33 to R35). -/
structure Results where
  /-- OUT_COUNT (R33). -/
  outCount : Word
  /-- BITS_USED (R34). -/
  bitsUsed : Word
  /-- FINAL_STATE (R35). -/
  finalState : Word
  deriving DecidableEq, Repr

/-- The convergence registers (10_state.md R36, R37). -/
structure Convergence where
  /-- CH_START[0..14] (R36). -/
  start : Vector Word 15
  /-- CH_CONV[0..14] (R37). -/
  conv : Vector Word 15
  deriving DecidableEq, Repr

/-- The storage that exists only while one command uses it (10_state.md R40, R41, R43). -/
structure Workspace where
  /-- The heap array H[0..hsize−1]; hsize is its length (R40). -/
  heap : List HeapEntry
  /-- The node pool in creation order (R41). -/
  pool : List PoolNode
  /-- The channel units' private storage, unit 0 first (R43). -/
  channels : List Channel
  deriving DecidableEq, Repr

/-- The workspace outside a command: it does not exist (10_state.md R40, R41, R43; log 7). -/
def Workspace.none : Workspace := { heap := [], pool := [], channels := [] }

/-- The whole state. The constant registers ID, VERSION, CONFIG, PKT_SIZE and OUT_SIZE are computed (`regValue`); CMD and
CTRL.SRST have no storage (R17, R21); STATUS.BUSY and IRQ are computed (`State.busy`, `State.irq`). -/
structure State where
  /-- PKT_BYTES, OUT_BYTES and K_MAX, fixed for one hardware (00_scope.md R7; log 1). -/
  params : Config.Params
  /-- CTRL.IRQ_EN (10_state.md R17). -/
  irqEn : Bool
  /-- STATUS but BUSY (R18). -/
  status : Status
  /-- PKT_LEN (R22). -/
  pktLen : Word
  /-- CONV_LIMIT (R23). -/
  convLimit : Word
  /-- ERR_INFO (R24). -/
  errInfo : Word
  /-- HDR_TOTAL_LO/HI, HDR_NSYM, HDR_BITS, HDR_ENC_LEN, HDR_DEC_LEN (R25 to R29). -/
  hdr : Header
  /-- NODE_COUNT, STATE_COUNT, MAX_CODE_LEN (R30 to R32). -/
  counts : TreeCounts
  /-- OUT_COUNT, BITS_USED, FINAL_STATE (R33 to R35). -/
  results : Results
  /-- CH_START, CH_CONV (R36, R37). -/
  conv : Convergence
  /-- SYMTAB[0..11] (R39). -/
  symtab : Vector SymEntry 12
  /-- The heap, the node pool and the channel storage (R40, R41, R43). -/
  work : Workspace
  /-- The command sequencer (R44). -/
  sequencer : Sequencer
  /-- PKT_MEM (20_memory.md R47). -/
  pkt : Memory
  /-- OUT_MEM (R47). -/
  out : Memory
  /-- TREE_MEM (R47). -/
  tree : Memory
  /-- TABLE_MEM (R47, 10_state.md R42). -/
  table : Memory
  /-- The RST input: true while it is asserted (70_reset_and_hazards.md R157). -/
  rst : Bool
  /-- What the outside world does next, first event first (R168; log 2). -/
  events : List Event
  /-- The host port's answer to the last transaction (R168; log 8). -/
  resp : Response
  /-- The model's own: the number of free draws taken so far (logs 3, 4 and 5). -/
  draws : Nat
  deriving DecidableEq, Repr

/-- Why a step could stop with a fault. HFSM has no such case (70_reset_and_hazards.md R170: no stuck state and no hang; every error
is a code at completion, 60_exceptions.md R141, and a bus error is an answer to the host, 20_memory.md R52), so the type has no
constructor. -/
inductive Fault where
  deriving DecidableEq, Repr

/-- Why a step could have no meaning. -/
inductive Refusal where
  /-- Raised only by an arm of `exec` whose command has no meaning yet (safe: the model stops). No arm of this model is. -/
  | notModelled (mnemonic : String)
  deriving DecidableEq, Repr

/-- The state right after a hardware reset of the reference hardware: the "after hardware reset" column of 10_state.md R45. The
memories list nothing: every byte is an unspecified one (log 3). SYMTAB, for which the spec gives no value, is zero (log 6); the
heap, the node pool and the channel storage do not exist outside a command and are empty (log 7). RST is released; no event is
pending; the host port has answered nothing yet (log 8). The counter of draws starts at 4, after the four memories' draws. -/
def State.reset : State where
  params := Config.reference
  irqEn := false
  status :=
    { done := false, err := false, cmdDrop := false, accDrop := false, busErr := false, phase := .empty, errCode := .ok, lastOp := 0 }
  pktLen := 0
  convLimit := 0
  errInfo := 0
  hdr := { totalLo := 0, totalHi := 0, nsym := 0, bits := 0, encLen := 0, decLen := 0 }
  counts := { nodes := 0, states := 0, maxCodeLen := 0 }
  results := { outCount := 0, bitsUsed := 0, finalState := 0 }
  conv := { start := Vector.replicate 15 0, conv := Vector.replicate 15 0 }
  symtab := Vector.replicate 12 { freq := 0, sym := 0 }
  work := Workspace.none
  sequencer := .idle
  pkt := { era := 0, cells := [] }
  out := { era := 1, cells := [] }
  tree := { era := 2, cells := [] }
  table := { era := 3, cells := [] }
  rst := false
  events := []
  resp := { err := false, data := 0 }
  draws := 4

end Machine
end Sys2Proof
end

