-- ==== Sys2Proof/Machine/Ops.lean ====
section
/-! DEFINITION. The named operations over memories and registers: byte order, reading and writing a memory, the named updates of the
state, and the command life cycle (acceptance R139, raise R141, completion R140), which in HFSM takes the place of taking an
exception and returning from one (60_exceptions.md R149, R151). -/

namespace Sys2Proof
namespace Machine

/-! ## Byte order (20_memory.md R53: little-endian, not switchable) -/

/-- The number that bytes in increasing address order stand for, first byte least significant (R53, MemRead). -/
def fromBytes : List Byte → Nat
  | [] => 0
  | b :: bs => b.toNat + 256 * fromBytes bs

/-- The low `n` bytes of a number in increasing address order (R53, MemWrite). -/
def toBytes : Nat → Nat → List Byte
  | 0, _ => []
  | n + 1, v => BitVec.ofNat 8 v :: toBytes n (v / 256)

/-! ## A memory (20_memory.md R47, R54) -/

/-- The byte listed at an offset. -/
def listedAt : List Host.Cell → Nat → Option Byte
  | [], _ => none
  | c :: cs, a => if c.1 = a then some c.2 else listedAt cs a

/-- What an unlisted offset reads as: the free byte of the memory's own draw (log 3). -/
def Memory.unlisted (m : Memory) (a : Nat) : Byte := Config.freeByte m.era a

/-- Reading one byte. -/
def Memory.byte (m : Memory) (a : Nat) : Byte := (listedAt m.cells a).getD (m.unlisted a)

/-- Reads `n` bytes from `a` on, onto `acc`; cells below the current offset are left behind, so that one pass does. -/
def Memory.gather (m : Memory) : Nat → Nat → List Host.Cell → List Byte → List Byte
  | 0, _, _, acc => acc.reverse
  | n + 1, a, cells, acc =>
    let rest := cells.dropWhile (fun c => decide (c.1 < a))
    m.gather n (a + 1) rest ((listedAt rest a).getD (m.unlisted a) :: acc)

/-- Reading `n` bytes from offset `a` on, in increasing order. -/
def Memory.bytes (m : Memory) (a n : Nat) : List Byte := m.gather n a m.cells []

/-- MemRead(space, a, n): `n` bytes from `a` on, little-endian (R53). -/
def Memory.le (m : Memory) (a n : Nat) : Nat := fromBytes (m.bytes a n)

/-- Bytes as cells from offset `a` on. -/
def numbered (a : Nat) (bs : List Byte) : List Host.Cell := (bs.zipIdx a).map (fun p => (p.2, p.1))

/-- Writing bytes from offset `a` on: what is listed below and above stays. -/
def Memory.put (m : Memory) (a : Nat) (bs : List Byte) : Memory :=
  { m with
    cells :=
      m.cells.filter (fun c => decide (c.1 < a)) ++ numbered a bs ++ m.cells.filter (fun c => decide (a + bs.length ≤ c.1)) }

/-- A memory of which every byte is unspecified, with draw number `draw` (10_state.md R45, 70_reset_and_hazards.md R159). -/
def Memory.unspecified (draw : Nat) : Memory := { era := draw, cells := [] }

/-- The canonical form of a memory of `size` bytes: offsets strictly rise and exist. (An unlisted offset has no written value, so
no listed byte equals one; log 3.) -/
abbrev Memory.wf (m : Memory) (size : Nat) : Prop :=
  m.cells.Pairwise (fun c d => c.1 < d.1) ∧ ∀ c ∈ m.cells, c.1 < size

/-- `n` free bytes of draw number `draw`, for offsets 0 to n − 1 (log 5). -/
def freeBytes (draw n : Nat) : List Byte := (List.range n).map (Config.freeByte draw)

/-- The symbol table when it has become meaningless (41_parse.md R91, 45_control.md R138; log 4). -/
def freeSymtab (draw : Nat) : Vector SymEntry 12 :=
  Vector.ofFn (fun j => { freq := Config.freeFrequency draw j, sym := Config.freeSymbol draw j })

/-! ## The sequencer -/

/-- STATUS.BUSY (10_state.md R44): 1 exactly when the sequencer is running. -/
def State.busy (s : State) : Bool :=
  match s.sequencer with
  | .idle => false
  | .running _ => true

/-- The command word that the sequencer is executing (10_state.md R44). There is no other fetch (45_control.md R136). -/
def State.fetched (s : State) : Option Word :=
  match s.sequencer with
  | .idle => none
  | .running c => some c

/-- The value of a phase in STATUS.PHASE (10_state.md R20). -/
def Phase.toNat : Phase → Nat
  | .empty => 0
  | .parsed => 1
  | .tree => 2
  | .tables => 3

/-- The value of an error code in STATUS.ERR_CODE (60_exceptions.md R142). -/
def ErrCode.toNat : ErrCode → Nat
  | .ok => 0
  | .truncated => 1
  | .symtab => 2
  | .corrupt => 3
  | .length => 4
  | .outSize => 5
  | .seq => 6
  | .badCmd => 7
  | .badArg => 8

/-! ## Named updates -/

/-- The pending events become `es`. -/
def State.withEvents (s : State) (es : List Event) : State := { s with events := es }

/-- The host port answers a transaction. -/
def State.answer (s : State) (err : Bool) (data : Word) : State := { s with resp := { err := err, data := data } }

/-- STATUS but BUSY becomes `st`. -/
def State.setStatus (s : State) (st : Status) : State := { s with status := st }

/-- STATUS.PHASE becomes `p`. -/
def State.setPhase (s : State) (p : Phase) : State := { s with status := { s.status with phase := p } }

/-- Acceptance of command word `c` (60_exceptions.md R139): BUSY ← 1, DONE ← 0, ERR ← 0. -/
def State.accept (s : State) (c : Word) : State :=
  { s with sequencer := .running c, status := { s.status with done := false, err := false } }

/-- How a command ends: its error code and its ERR_INFO value (60_exceptions.md R140, R142). -/
structure Ending where
  code : ErrCode
  info : Word
  deriving DecidableEq, Repr

/-- The ending (0, 0) of a command that succeeds (R140). -/
def Ending.success : Ending := { code := .ok, info := 0 }

/-- A command's writes and its ending, before completion. -/
structure CommandResult where
  state : State
  ending : Ending
  deriving DecidableEq, Repr

/-- The command succeeds with the state `s`. -/
def succeed (s : State) : CommandResult := { state := s, ending := Ending.success }

/-- raise Err(code, info) (60_exceptions.md R141): the command ends here; `s` holds its failure effects (R145 to R147). -/
def raiseErr (s : State) (code : ErrCode) (info : Word) : CommandResult :=
  { state := s, ending := { code := code, info := info } }

/-- The next step of a composite command runs on the state the previous one left, unless that one raised (45_control.md R137). -/
def CommandResult.andThen (r : CommandResult) (f : State → CommandResult) : CommandResult :=
  if r.ending.code = .ok then f r.state else r

/-- Completion (60_exceptions.md R140), after the command's writes. -/
def State.finish (s : State) (op : Byte) (e : Ending) : State :=
  { s with
    errInfo := e.info
    status := { s.status with errCode := e.code, lastOp := op, err := decide (e.code ≠ .ok), done := true }
    sequencer := .idle }

/-- Completion of the command with opcode `op`: its writes and its ending take effect in one step (R140, 20_memory.md R61). -/
def complete (op : Byte) (r : CommandResult) : Host.Outcome State Fault Refusal := .next (r.state.finish op r.ending)

/-- PARSE latches the header and the symbol table (41_parse.md R90). -/
def State.latchHeader (s : State) (h : Header) (tab : Vector SymEntry 12) : State :=
  { s with
    hdr := h
    symtab := tab
    counts := { nodes := 0, states := 0, maxCodeLen := 0 }
    status := { s.status with phase := .parsed } }

/-- PARSE fails (41_parse.md R91): the header registers and the tree counts are 0, PHASE is EMPTY, SYMTAB is meaningless. -/
def State.dropHeader (s : State) : State :=
  { s with
    hdr := State.reset.hdr
    counts := State.reset.counts
    symtab := freeSymtab s.draws
    draws := s.draws + 1
    status := { s.status with phase := .empty } }

/-- CLEAR (45_control.md R138): PHASE is EMPTY, every register at 0x040–0x0FC is 0, SYMTAB is meaningless. -/
def State.clearDerived (s : State) : State :=
  { s with
    hdr := State.reset.hdr
    counts := State.reset.counts
    results := State.reset.results
    conv := State.reset.conv
    symtab := freeSymtab s.draws
    draws := s.draws + 1
    status := { s.status with phase := .empty } }

/-- The command-local storage becomes `w` (10_state.md R40, R41, R43). -/
def State.setWork (s : State) (w : Workspace) : State := { s with work := w }

/-- BUILD_TREE's results (42_tree.md R102): TREE_MEM[0..91], the counts, PHASE. -/
def State.storeTree (s : State) (bs : List Byte) (c : TreeCounts) : State :=
  { s with tree := s.tree.put 0 bs, counts := c, status := { s.status with phase := .tree } }

/-- GEN_TABLES's results (43_tables.md R112): TABLE_MEM[0..45055], PHASE. -/
def State.storeTables (s : State) (bs : List Byte) : State :=
  { s with table := s.table.put 0 bs, status := { s.status with phase := .tables } }

/-- HEAP_ORDER's results (42_tree.md R101): OUT_MEM from 0 on and OUT_COUNT. -/
def State.storeOrder (s : State) (bs : List Byte) (n : Word) : State :=
  { s with out := s.out.put 0 bs, results := { s.results with outCount := n } }

/-- A successful decode's results (44_decode.md R116, R130): OUT_MEM from 0 on, OUT_COUNT, BITS_USED, FINAL_STATE. -/
def State.storeDecoded (s : State) (bs : List Byte) (r : Results) : State :=
  { s with out := s.out.put 0 bs, results := r }

/-- A failed decode's effects (60_exceptions.md R146): the result registers are 0 and OUT_MEM[0..d−1] is unspecified (log 5). -/
def State.voidOutput (s : State) (d : Nat) : State :=
  { s with out := s.out.put 0 (freeBytes s.draws d), draws := s.draws + 1, results := State.reset.results }

/-- DECODE's convergence registers (44_decode.md R121, R125). -/
def State.setConv (s : State) (c : Convergence) : State := { s with conv := c }

/-- An idle host write to PKT_MEM (20_memory.md R57): the bytes, and PHASE becomes EMPTY. -/
def State.hostPacket (s : State) (a : Nat) (bs : List Byte) : State :=
  { s with pkt := s.pkt.put a bs, status := { s.status with phase := .empty } }

/-- An idle host write to OUT_MEM (20_memory.md R49). -/
def State.hostOutput (s : State) (a : Nat) (bs : List Byte) : State := { s with out := s.out.put a bs }

/-- An idle host write of v to PKT_LEN (10_state.md R22): min(v, PKT_BYTES), and PHASE becomes EMPTY. -/
def State.setPktLen (s : State) (v : Word) : State :=
  { s with pktLen := BitVec.ofNat 32 (min v.toNat s.params.pktBytes), status := { s.status with phase := .empty } }

/-- An idle host write to CONV_LIMIT (10_state.md R23). -/
def State.setConvLimit (s : State) (v : Word) : State := { s with convLimit := v }

/-- A host write to CTRL without SRST (10_state.md R17). -/
def State.setIrqEn (s : State) (b : Bool) : State := { s with irqEn := b }

/-- TREE_MEM[0..91] becomes unspecified (70_reset_and_hazards.md R159). -/
def State.scrambleTree (s : State) : State := { s with tree := Memory.unspecified s.draws, draws := s.draws + 1 }

/-- TABLE_MEM[0..0xAFFF] becomes unspecified (70_reset_and_hazards.md R159). -/
def State.scrambleTable (s : State) : State := { s with table := Memory.unspecified s.draws, draws := s.draws + 1 }

/-- OUT_MEM[0..n−1] becomes unspecified (70_reset_and_hazards.md R159; log 5). -/
def State.scrambleOut (s : State) (n : Nat) : State :=
  { s with out := s.out.put 0 (freeBytes s.draws n), draws := s.draws + 1 }

/-- The RST input changes its level. -/
def State.setRst (s : State) (b : Bool) : State := { s with rst := b }

end Machine
end Sys2Proof
end

