-- ==== Sys2Proof/Machine/Operands.lean ====
section
/-! DEFINITION. The operands of the commands: the packet's fields (30_encoding.md R75, R76), the bitstream (20_memory.md R59), the
tree nodes (42_tree.md R99), the table slots (43_tables.md R107), the symbol table entries in use (10_state.md R39), the channel
count (30_encoding.md R71) and the phase (60_exceptions.md R144). -/

namespace Sys2Proof
namespace Machine

/-! ## The packet -/

/-- LE32(a): 4 bytes of PKT_MEM, little-endian (20_memory.md R58). -/
def State.le32 (s : State) (a : Nat) : Nat := s.pkt.le a 4

/-- LE64(a): 8 bytes of PKT_MEM, little-endian (20_memory.md R58). -/
def State.le64 (s : State) (a : Nat) : Nat := s.pkt.le a 8

/-- Symbol table entry j of the packet (30_encoding.md R76): its frequency at 12 + 8j, its symbol at 16 + 8j. -/
def State.packetEntry (s : State) (j : Nat) : SymEntry :=
  { freq := BitVec.ofNat 32 (s.le32 (12 + 8 * j)), sym := s.pkt.byte (16 + 8 * j) }

/-- The fields of the packet header (30_encoding.md R75) as numbers. -/
structure PacketHeader where
  /-- T, the total packet length. -/
  total : Nat
  /-- N, the symbol count. -/
  nsym : Nat
  /-- B, the bitstream length in bits. -/
  bits : Nat
  /-- E, the encoded payload length in bytes. -/
  encLen : Nat
  /-- D, the decoded output length in bytes. -/
  decLen : Nat
  deriving DecidableEq, Repr

/-- The header at its fixed offsets, for a packet of n symbols (30_encoding.md R75). -/
def State.headerAt (s : State) (n : Nat) : PacketHeader :=
  { total := s.le64 0
    nsym := n
    bits := s.le32 (12 + 8 * n)
    encLen := s.le32 (16 + 8 * n)
    decLen := s.le32 (20 + 8 * n) }

/-- The header as the registers hold it (10_state.md R25 to R29). -/
def PacketHeader.registers (h : PacketHeader) : Header :=
  { totalLo := BitVec.ofNat 32 h.total
    totalHi := BitVec.ofNat 32 (h.total / 2 ^ 32)
    nsym := BitVec.ofNat 32 h.nsym
    bits := BitVec.ofNat 32 h.bits
    encLen := BitVec.ofNat 32 h.encLen
    decLen := BitVec.ofNat 32 h.decLen }

/-! ## The symbol table in use -/

/-- N = HDR_NSYM. -/
def State.symbolCount (s : State) : Nat := s.hdr.nsym.toNat

/-- SYMTAB[0..N−1] (10_state.md R39). -/
def State.symbols (s : State) : List SymEntry := s.symtab.toList.take s.symbolCount

/-! ## The bitstream -/

/-- B = HDR_BITS (44_decode.md §1). -/
def State.bitCount (s : State) : Nat := s.hdr.bits.toNat

/-- D = HDR_DEC_LEN (44_decode.md §1). -/
def State.decodedLen (s : State) : Nat := s.hdr.decLen.toNat

/-- L = ceil(B/8), the number of bitstream bytes the decoder may read (44_decode.md §1). -/
def State.streamLen (s : State) : Nat := (s.bitCount + 7) / 8

/-- base = 24 + 8N, the packet offset of the bitstream (44_decode.md §1). -/
def State.streamBase (s : State) : Nat := 24 + 8 * s.symbolCount

/-- The bitstream bytes PKT[base .. base + L − 1]. -/
def State.stream (s : State) : List Byte := s.pkt.bytes s.streamBase s.streamLen

/-- The bits of a byte, bit 7 first (20_memory.md R59). -/
def byteBits (b : Byte) : List Bool := [7, 6, 5, 4, 3, 2, 1, 0].map b.getLsbD

/-- The bits of bytes: BIT(0), BIT(1), … (20_memory.md R59). -/
def streamBits (bs : List Byte) : List Bool := bs.flatMap byteBits

/-! ## Tree nodes -/

/-- A node of TREE_MEM: its four bytes (42_tree.md R99). Byte 1 is the state index of an internal node and the symbol of a leaf. -/
structure TreeNode where
  kind : Byte
  value : Byte
  left : Byte
  right : Byte
  deriving DecidableEq, Repr

/-- KIND = 0x00: an internal node (R99). -/
def TreeNode.isInternal (n : TreeNode) : Bool := n.kind == 0x00

/-- KIND = 0x01: a leaf (R99). -/
def TreeNode.isLeaf (n : TreeNode) : Bool := n.kind == 0x01

/-- The four bytes of a node. -/
def TreeNode.toBytes (n : TreeNode) : List Byte := [n.kind, n.value, n.left, n.right]

/-- An unused entry of TREE_MEM, 0x000000FF (R99). -/
def TreeNode.unused : TreeNode := { kind := 0xFF, value := 0, left := 0, right := 0 }

/-- Bytes in fours, as nodes. -/
def nodesOf : List Byte → List TreeNode
  | k :: v :: l :: r :: rest => { kind := k, value := v, left := l, right := r } :: nodesOf rest
  | _ => []

/-- The 23 nodes of TREE_MEM. -/
def Memory.nodes (m : Memory) : List TreeNode := nodesOf (m.bytes 0 Config.treeBytes)

/-- Node i. -/
def nodeAt (nodes : List TreeNode) (i : Nat) : TreeNode := nodes.getD i TreeNode.unused

/-- The child of node i that a bit selects: 0 the left one, 1 the right one (42_tree.md R100). -/
def childOf (nodes : List TreeNode) (i : Nat) (bit : Bool) : Nat :=
  if bit then (nodeAt nodes i).right.toNat else (nodeAt nodes i).left.toNat

/-! ## Table slots -/

/-- The bit indices set in a mask, from bit 7 down (43_tables.md R108). -/
def setBits (mask : Byte) : List Nat := [7, 6, 5, 4, 3, 2, 1, 0].filter mask.getLsbD

/-- endpos(mask, 0), endpos(mask, 1), …: the number of bits of the byte consumed up to the end of each symbol (43_tables.md R108). -/
def endPositions (mask : Byte) : List Nat := (setBits mask).map (8 - ·)

/-- SLOT(s, v) (44_decode.md R118): reads the 16-byte slot (s, v) of TABLE_MEM and checks it; a failed check is E_CORRUPT with
ERR_INFO (s << 8) | v. -/
def readSlot (table : Memory) (states st : Nat) (v : Byte) : Except Ending Slot :=
  let bs := table.bytes ((st * 256 + v.toNat) * Config.slotBytes) 11
  let count := (bs.getD 8 0).toNat
  let next := (bs.getD 9 0).toNat
  let mask := bs.getD 10 0
  if states ≤ st ∨ Config.maxEmit < count ∨ states ≤ next ∨ (setBits mask).length ≠ count then
    .error { code := .corrupt, info := BitVec.ofNat 32 (st * 256 + v.toNat) }
  else
    .ok { syms := bs.take count, next := next, mask := mask }

/-! ## Operand checks -/

/-- The channel count is out of range (30_encoding.md R71): K = 0 or K > K_MAX. -/
def State.badCount (s : State) (k : Nat) : Bool := decide (k = 0 ∨ s.params.kMax < k)

/-- E_BADARG with ERR_INFO = K; nothing else changes (30_encoding.md R71, 60_exceptions.md R145). -/
def raiseBadArg (s : State) (k : Nat) : CommandResult := raiseErr s .badArg (BitVec.ofNat 32 k)

/-- E_SEQ with ERR_INFO = PHASE; nothing else changes (60_exceptions.md R144, R145). -/
def raiseSeq (s : State) : CommandResult := raiseErr s .seq (BitVec.ofNat 32 s.status.phase.toNat)

/-- The phase requirement of a command (60_exceptions.md R144): PHASE ≥ `p`. -/
def State.phaseAtLeast (s : State) (p : Phase) : Bool := decide (p.toNat ≤ s.status.phase.toNat)

end Machine
end Sys2Proof
end

