-- ==== Sys2Proof/Machine/Heap.lean ====
section
/-! DEFINITION. The frequency min-heap (42_tree.md R93 to R96) and HEAP_ORDER (R101). -/

namespace Sys2Proof
namespace Machine

/-- H[i]; only read below hsize. -/
def heapAt (h : List HeapEntry) (i : Nat) : HeapEntry := h.getD i { f := 0, ref := 0 }

/-- swap(H[i], H[j]). -/
def heapSwap (h : List HeapEntry) (i j : Nat) : List HeapEntry := (h.set i (heapAt h j)).set j (heapAt h i)

/-- The sift-up of R94 from position i, at most `fuel` levels (position i has at most i of them). -/
def siftUp : Nat → Nat → List HeapEntry → List HeapEntry
  | 0, _, h => h
  | fuel + 1, i, h =>
    let parent := (i - 1) / 2
    if 0 < i ∧ (heapAt h i).f < (heapAt h parent).f then siftUp fuel parent (heapSwap h i parent) else h

/-- heap_push(e) (42_tree.md R94). -/
def heapPush (h : List HeapEntry) (e : HeapEntry) : List HeapEntry := siftUp h.length h.length (h ++ [e])

/-- The child that the sift-down of R95 swaps position i with, or i itself: the smaller one by strict `<`, the left one on a tie. -/
def smallerChild (h : List HeapEntry) (i : Nat) : Nat :=
  let l := 2 * i + 1
  let r := 2 * i + 2
  let m := if l < h.length ∧ (heapAt h l).f < (heapAt h i).f then l else i
  if r < h.length ∧ (heapAt h r).f < (heapAt h m).f then r else m

/-- The sift-down of R95 from position i, at most `fuel` levels (there are at most hsize of them). -/
def siftDown : Nat → Nat → List HeapEntry → List HeapEntry
  | 0, _, h => h
  | fuel + 1, i, h =>
    let m := smallerChild h i
    if m = i then h else siftDown fuel m (heapSwap h i m)

/-- heap_pop() (42_tree.md R95): the entry at the root and the heap that is left. It is never called on an empty heap. -/
def heapPop (h : List HeapEntry) : HeapEntry × List HeapEntry :=
  let size := h.length - 1
  let moved := (h.set 0 (heapAt h size)).take size
  (heapAt h 0, siftDown size 0 moved)

/-- The heap entry that seeds symbol table entry j (42_tree.md R96): its frequency in 36 bits, and leaf j. -/
def seedEntry (e : SymEntry) (j : Nat) : HeapEntry := { f := e.freq.setWidth 36, ref := j }

/-- Seeding (42_tree.md R96): one push per symbol, in symbol-table order. -/
def seedHeap (symbols : List SymEntry) : List HeapEntry :=
  symbols.zipIdx.foldl (fun h p => heapPush h (seedEntry p.1 p.2)) []

/-- The first `n` entries that leave the heap, in order. -/
def popOrder : Nat → List HeapEntry → List HeapEntry
  | 0, _ => []
  | n + 1, h => (heapPop h).1 :: popOrder n (heapPop h).2

/-- The symbols in the order their entries leave the seeded heap `h`: sym_{e.ref} (42_tree.md R101). -/
def orderedSymbols (symbols : List SymEntry) (h : List HeapEntry) : List Byte :=
  (popOrder symbols.length h).map (fun e => (symbols.getD e.ref { freq := 0, sym := 0 }).sym)

/-- HEAP_ORDER before completion (42_tree.md R101). -/
def heapOrderRun (s : State) : CommandResult :=
  if s.phaseAtLeast .parsed then
    let seeded := s.setWork { s.work with heap := seedHeap s.symbols }
    succeed ((seeded.storeOrder (orderedSymbols s.symbols seeded.work.heap) s.hdr.nsym).setWork Workspace.none)
  else raiseSeq s

/-- HEAP_ORDER (42_tree.md R101). -/
def execHeapOrder (s : State) : Host.Outcome State Fault Refusal := complete 0x06 (heapOrderRun s)

end Machine
end Sys2Proof
end

