-- ==== Sys2Proof/Machine/Tree.lean ====
section
/-! DEFINITION. The Huffman tree builder: BUILD_TREE (42_tree.md R97 to R102) and the code words (R100). -/

namespace Sys2Proof
namespace Machine

/-- pool[j] <- LEAF(sym_j) for every symbol (42_tree.md R97). -/
def leaves (symbols : List SymEntry) : List PoolNode := symbols.map (fun e => .leaf e.sym)

/-- One combining step (42_tree.md R97): the first popped entry becomes the left child, the sum of the frequencies is pushed. -/
def combineOnce (h : List HeapEntry) (pool : List PoolNode) : List HeapEntry × List PoolNode :=
  let a := heapPop h
  let b := heapPop a.2
  (heapPush b.2 { f := a.1.f + b.1.f, ref := pool.length }, pool ++ [.internal a.1.ref b.1.ref])

/-- Combining while more than one entry is left (42_tree.md R97); each step removes one entry, so hsize steps are enough. -/
def combine : Nat → List HeapEntry → List PoolNode → List HeapEntry × List PoolNode
  | 0, h, pool => (h, pool)
  | fuel + 1, h, pool =>
    if 1 < h.length then combine fuel (combineOnce h pool).1 (combineOnce h pool).2 else (h, pool)

/-- The children of a pool node, left before right. -/
def poolChildren (pool : List PoolNode) (x : Nat) : List Nat :=
  match pool[x]? with
  | some (.internal l r) => [l, r]
  | _ => []

/-- Breadth-first order (42_tree.md R98): the pool nodes as they leave the queue, at most `fuel` of them. -/
def breadthFirst (pool : List PoolNode) : Nat → List Nat → List Nat
  | 0, _ => []
  | _ + 1, [] => []
  | fuel + 1, x :: queue => x :: breadthFirst pool fuel (queue ++ poolChildren pool x)

/-- Whether a pool node is internal. -/
def poolInternal (pool : List PoolNode) (x : Nat) : Bool := !(poolChildren pool x).isEmpty

/-- idx[x] (42_tree.md R98): the position of x in the breadth-first order. -/
def indexIn (order : List Nat) (x : Nat) : Nat := order.idxOf x

/-- The TREE_MEM node of pool node x (42_tree.md R99), given the order of all nodes and that of the internal nodes, st[x]. -/
def layoutNode (pool : List PoolNode) (order internals : List Nat) (x : Nat) : TreeNode :=
  match pool[x]? with
  | some (.internal l r) =>
    { kind := 0x00
      value := BitVec.ofNat 8 (indexIn internals x)
      left := BitVec.ofNat 8 (indexIn order l)
      right := BitVec.ofNat 8 (indexIn order r) }
  | some (.leaf sym) => { kind := 0x01, value := sym, left := 0x00, right := 0x00 }
  | none => TreeNode.unused

/-- The flat layout of the tree with the given root (42_tree.md R98, R99): nodes 0 .. 2N−2. -/
def layoutTree (pool : List PoolNode) (root : Nat) : List TreeNode :=
  let order := breadthFirst pool pool.length [root]
  let internals := order.filter (poolInternal pool)
  order.map (layoutNode pool order internals)

/-- All 23 entries of TREE_MEM (42_tree.md R99): the nodes, then unused entries. -/
def treeEntries (nodes : List TreeNode) : List TreeNode :=
  nodes ++ List.replicate (Config.maxNodes - nodes.length) TreeNode.unused

/-- The depths of the leaves below pool node x, which is at depth d. -/
def leafDepths (pool : List PoolNode) : Nat → Nat → Nat → List Nat
  | 0, _, _ => []
  | fuel + 1, x, d =>
    match pool[x]? with
    | some (.internal l r) => leafDepths pool fuel l (d + 1) ++ leafDepths pool fuel r (d + 1)
    | some (.leaf _) => [d]
    | none => []

/-- MAX_CODE_LEN: the depth of the deepest leaf (42_tree.md R102). -/
def deepestLeaf (pool : List PoolNode) (root : Nat) : Nat := (leafDepths pool pool.length root 0).foldl max 0

/-- The combined heap and pool of a symbol table (42_tree.md R96, R97). -/
def grownTree (symbols : List SymEntry) : List HeapEntry × List PoolNode :=
  combine symbols.length (seedHeap symbols) (leaves symbols)

/-- The root: the final pop (42_tree.md R97). -/
def rootOf (h : List HeapEntry) : Nat := (heapPop h).1.ref

/-- The nodes of the tree of a symbol table: a function of the table alone (42_tree.md R104). -/
def treeOf (symbols : List SymEntry) : List TreeNode := layoutTree (grownTree symbols).2 (rootOf (grownTree symbols).1)

/-- The 92 bytes of TREE_MEM for the given nodes (42_tree.md R99). -/
def treeImage (nodes : List TreeNode) : List Byte := (treeEntries nodes).flatMap TreeNode.toBytes

/-- The three registers for N symbols and a deepest leaf (42_tree.md R102). -/
def countsFor (n depth : Nat) : TreeCounts :=
  { nodes := BitVec.ofNat 32 (2 * n - 1), states := BitVec.ofNat 32 (n - 1), maxCodeLen := BitVec.ofNat 32 depth }

/-- BUILD_TREE: seeding the heap and the leaves of the node pool (42_tree.md R96, R97). -/
def State.seedTree (s : State) : State :=
  s.setWork { s.work with heap := seedHeap s.symbols, pool := leaves s.symbols }

/-- BUILD_TREE: combining (42_tree.md R97). -/
def State.growTree (s : State) : State :=
  let grown := combine s.symbols.length s.work.heap s.work.pool
  s.setWork { s.work with heap := grown.1, pool := grown.2 }

/-- BUILD_TREE: the layout and the registers (42_tree.md R98, R99, R102); the heap and the pool end with the command. -/
def State.layTree (s : State) : State :=
  let root := rootOf s.work.heap
  (s.storeTree (treeImage (layoutTree s.work.pool root)) (countsFor s.symbolCount (deepestLeaf s.work.pool root))).setWork
    Workspace.none

/-- BUILD_TREE before completion (42_tree.md R102). -/
def buildTreeRun (s : State) : CommandResult :=
  if s.phaseAtLeast .parsed then succeed s.seedTree.growTree.layTree else raiseSeq s

/-- BUILD_TREE (42_tree.md R102). -/
def execBuildTree (s : State) : Host.Outcome State Fault Refusal := complete 0x02 (buildTreeRun s)

/-- The code words below node i, whose own path is `path` (42_tree.md R100): the symbol and the bits from the root, first bit
first. -/
def codesBelow (nodes : List TreeNode) : Nat → Nat → List Bool → List (Byte × List Bool)
  | 0, _, _ => []
  | fuel + 1, i, path =>
    if (nodeAt nodes i).isLeaf then [((nodeAt nodes i).value, path)]
    else if (nodeAt nodes i).isInternal then
      codesBelow nodes fuel (childOf nodes i false) (path ++ [false]) ++ codesBelow nodes fuel (childOf nodes i true) (path ++ [true])
    else []

/-- The code words of a tree, from its root (42_tree.md R100). -/
def codeWords (nodes : List TreeNode) : List (Byte × List Bool) := codesBelow nodes nodes.length 0 []

end Machine
end Sys2Proof
end

