-- ==== Sys2Proof/Machine/Tables.lean ====
section
/-! DEFINITION. The state-table generator: SLOTFN (43_tables.md R106), the slot format (R107), GEN_TABLES (R112, R114). -/

namespace Sys2Proof
namespace Machine

/-- node(s): the internal node whose state index is s (43_tables.md R106). -/
def nodeOfState (nodes : List TreeNode) (st : Nat) : Nat :=
  nodes.findIdx (fun n => n.isInternal && n.value.toNat == st)

/-- Where a walk stands (43_tables.md R106): the node, the symbols emitted so far and the bit indices where they ended. -/
structure Walk where
  cur : Nat
  emitted : List Byte
  ends : List Nat
  deriving DecidableEq, Repr

/-- One bit of the walk: bit i of v, with value `bit`; after a symbol the walk restarts at the root (43_tables.md R106). -/
def walkBit (nodes : List TreeNode) (w : Walk) (i : Nat) (bit : Bool) : Walk :=
  let child := childOf nodes w.cur bit
  if (nodeAt nodes child).isLeaf then
    { cur := 0, emitted := w.emitted ++ [(nodeAt nodes child).value], ends := w.ends ++ [i] }
  else { w with cur := child }

/-- The walk through the 8 bits of v, MSB first, from node `cur` (43_tables.md R106). -/
def walkByte (nodes : List TreeNode) (cur : Nat) (v : Byte) : Walk :=
  [7, 6, 5, 4, 3, 2, 1, 0].foldl (fun w i => walkBit nodes w i (v.getLsbD i)) { cur := cur, emitted := [], ends := [] }

/-- The mask with the given bits set (43_tables.md R108). -/
def maskOf (ends : List Nat) : Byte := ends.foldl (fun m i => m ||| (1 <<< i)) 0

/-- SLOTFN(s, v) (43_tables.md R106). -/
def slotFn (nodes : List TreeNode) (st : Nat) (v : Byte) : Slot :=
  let w := walkByte nodes (nodeOfState nodes st) v
  { syms := w.emitted, next := (nodeAt nodes w.cur).value.toNat, mask := maskOf w.ends }

/-- The 16 bytes of a slot (43_tables.md R107). -/
def slotImage (e : Slot) : List Byte :=
  e.syms ++ List.replicate (Config.maxEmit - e.syms.length) 0
    ++ [BitVec.ofNat 8 e.syms.length, BitVec.ofNat 8 e.next, e.mask, 0, 0, 0, 0, 0]

/-- The slot bytes of state st and byte v: SLOTFN for a state in use, zero bytes for an unused one (43_tables.md R112, R114). -/
def slotBytesOf (nodes : List TreeNode) (states st v : Nat) : List Byte :=
  if st < states then slotImage (slotFn nodes st (BitVec.ofNat 8 v)) else List.replicate Config.slotBytes 0

/-- The 45056 bytes of TABLE_MEM (43_tables.md R112): 256 slots for each of 11 states. -/
def tableImage (nodes : List TreeNode) (states : Nat) : List Byte :=
  (List.range Config.maxStates).flatMap (fun st => (List.range 256).flatMap (slotBytesOf nodes states st))

/-- GEN_TABLES before completion (43_tables.md R112). -/
def genTablesRun (s : State) : CommandResult :=
  if s.phaseAtLeast .tree then succeed (s.storeTables (tableImage s.tree.nodes s.counts.states.toNat)) else raiseSeq s

/-- GEN_TABLES (43_tables.md R112). -/
def execGenTables (s : State) : Host.Outcome State Fault Refusal := complete 0x03 (genTablesRun s)

end Machine
end Sys2Proof
end

