-- ==== Sys2Proof/Machine/Channel.lean ====
section
/-! DEFINITION. The channel decoder and the convergence merger: emission (44_decode.md R117), the single-channel loop (R119), segments
(R121), the speculative pass (R122, R123), the merge (R124, R125) and DECODE (R116). -/

namespace Sys2Proof
namespace Machine

/-- CH_CONV's value NONE (10_state.md R37). -/
def convNone : Word := 0xFFFFFFFF

/-- CH_CONV's value SKIPPED (10_state.md R37). -/
def convSkipped : Word := 0xFFFFFFFE

/-! ## Emission (44_decode.md R117) -/

/-- The output so far: w bytes, the last first; and `bits`, BITS_USED when the D-th symbol is out. -/
structure Emitted where
  w : Nat
  bits : Nat
  rev : List Byte
  deriving DecidableEq, Repr

/-- No output yet. -/
def Emitted.start : Emitted := { w := 0, bits := 0, rev := [] }

/-- E_LENGTH with ERR_INFO = w (44_decode.md R117, R119). -/
def lengthEnding (w : Nat) : Ending := { code := .length, info := BitVec.ofNat 32 w }

/-- One symbol after the other, each with its endpos: stops at the D-th symbol, fails at a symbol that ends after bit B
(44_decode.md R117). -/
def emitSymbols (d b j : Nat) : List (Byte × Nat) → Emitted → Except Ending Emitted
  | [], m => .ok m
  | (sym, endpos) :: rest, m =>
    if m.w = d then .ok m
    else if b < 8 * j + endpos then .error (lengthEnding m.w)
    else
      emitSymbols d b j rest
        { w := m.w + 1, bits := if m.w + 1 = d then 8 * j + endpos else m.bits, rev := sym :: m.rev }

/-- emit(e, j) (44_decode.md R117). -/
def emitSlot (d b j : Nat) (e : Slot) (m : Emitted) : Except Ending Emitted :=
  emitSymbols d b j (e.syms.zip (endPositions e.mask)) m

/-! ## The single-channel loop (44_decode.md R119) -/

/-- SEQDECODE from bitstream byte j on, in state st: the final state and the output, or the error. -/
def seqLoop (table : Memory) (states d b : Nat) : List Byte → Nat → Nat → Emitted → Except Ending (Nat × Emitted)
  | [], _, st, m => if m.w < d then .error (lengthEnding m.w) else .ok (st, m)
  | v :: rest, j, st, m =>
    if m.w < d then
      match readSlot table states st v with
      | .error e => .error e
      | .ok e =>
        match emitSlot d b j e m with
        | .error err => .error err
        | .ok m' => seqLoop table states d b rest (j + 1) e.next m'
    else .ok (st, m)

/-- SEQDECODE (44_decode.md R119), the reference that DECODE K agrees with for every K (R127). -/
def seqDecode (s : State) : Except Ending (Nat × Emitted) :=
  seqLoop s.table s.counts.states.toNat s.decodedLen s.bitCount s.stream 0 0 Emitted.start

/-! ## Segments and the speculative pass (44_decode.md R121, R122) -/

/-- s_i = floor(i·L/K); for i = K it is L (44_decode.md R121). -/
def segStart (l k i : Nat) : Nat := i * l / k

/-- The bytes of segment i (44_decode.md R121). -/
def segmentOf (stream : List Byte) (k i : Nat) : List Byte :=
  (stream.drop (segStart stream.length k i)).take (segStart stream.length k (i + 1) - segStart stream.length k i)

/-- CHANNEL(i) on the bytes of its segment, from state st (44_decode.md R122). -/
def channelRun (table : Memory) (states : Nat) : List Byte → Nat → Except Ending Channel
  | [], _ => .ok { specE := [], specS := [] }
  | v :: rest, st =>
    match readSlot table states st v with
    | .error e => .error e
    | .ok e =>
      match channelRun table states rest e.next with
      | .error err => .error err
      | .ok c => .ok { specE := e :: c.specE, specS := e.next :: c.specS }

/-- The speculative pass of all channel units, each from state 0; the first error is that of the lowest channel (44_decode.md R122,
R123, R129). -/
def speculate (table : Memory) (states : Nat) : List (List Byte) → Except Ending (List Channel)
  | [] => .ok []
  | seg :: segs =>
    match channelRun table states seg 0 with
    | .error e => .error e
    | .ok c =>
      match speculate table states segs with
      | .error e => .error e
      | .ok cs => .ok (c :: cs)

/-! ## The merge (44_decode.md R124) -/

/-- The merger's variables in R124: T, the output, fin, done, the mode (SPEC or CONT), cmp, k, the segment's number and CONV; and
the error it has raised, if any. -/
structure Merger where
  st : Nat
  emitted : Emitted
  fin : Nat
  done : Bool
  spec : Bool
  cmp : Bool
  k : Nat
  seg : Nat
  conv : Vector Word 15
  raised : Option Ending
  deriving DecidableEq, Repr

/-- The merger at its start, for a decoded length d (44_decode.md R124). -/
def Merger.start (d : Nat) : Merger where
  st := 0
  emitted := Emitted.start
  fin := 0
  done := decide (d = 0)
  spec := true
  cmp := true
  k := 0
  seg := 0
  conv := Vector.replicate 15 convSkipped
  raised := none

/-- The merger has finished or has raised an error: nothing that follows runs. -/
def Merger.stopped (m : Merger) : Bool := m.done || m.raised.isSome

/-- Entering segment i (44_decode.md R124): a true state of 0 is the assumed one. -/
def Merger.enter (m : Merger) (i : Nat) : Merger :=
  if m.stopped then m
  else if m.st = 0 then { m with spec := true, seg := i, conv := m.conv.setIfInBounds i 0 }
  else { m with spec := false, cmp := true, k := 0, seg := i, conv := m.conv.setIfInBounds i convNone }

/-- What R124 does after a byte in mode CONT: compare the true state with the speculative one, or give the comparing up. -/
def Merger.compare (m : Merger) (limit specS : Nat) : Merger :=
  if m.cmp ∧ m.st = specS then { m with conv := m.conv.setIfInBounds m.seg (BitVec.ofNat 32 m.k), spec := true }
  else if limit ≠ 0 ∧ m.k = limit then { m with cmp := false }
  else m

/-- One byte of a segment (44_decode.md R124): the slot of the speculative pass in mode SPEC, that of the true state in mode CONT. -/
def Merger.byte (table : Memory) (states d b limit : Nat) (m : Merger) (j : Nat) (v : Byte) (specE : Slot) (specS : Nat) : Merger :=
  if m.stopped then m
  else
    match (if m.spec then .ok specE else readSlot table states m.st v : Except Ending Slot) with
    | .error e => { m with raised := some e }
    | .ok e =>
      match emitSlot d b j e m.emitted with
      | .error err => { m with k := if m.spec then m.k else m.k + 1, raised := some err }
      | .ok out =>
        let m' := { m with k := if m.spec then m.k else m.k + 1, emitted := out, st := e.next }
        if out.w = d then { m' with done := true, fin := e.next }
        else if m.spec then m' else m'.compare limit specS

/-- The bytes of a segment from byte j on, with what its channel unit stored for them (44_decode.md R124). -/
def Merger.segment (table : Memory) (states d b limit : Nat) :
    Merger → Nat → List Byte → List Slot → List Nat → Merger
  | m, j, v :: vs, e :: es, st :: sts =>
    Merger.segment table states d b limit (m.byte table states d b limit j v e st) (j + 1) vs es sts
  | m, _, _, _, _ => m

/-- The segments from segment i on, in order (44_decode.md R124). -/
def Merger.walk (table : Memory) (states d b limit : Nat) (m : Merger) (i j : Nat) : List (List Byte) → List Channel → Merger
  | seg :: segs, c :: cs =>
    Merger.walk table states d b limit
      (Merger.segment table states d b limit (m.enter i) j seg c.specE c.specS) (i + 1) (j + seg.length) segs cs
  | _, _ => m

/-! ## DECODE (44_decode.md R116) -/

/-- The K segments of the bitstream. -/
def State.segments (s : State) (k : Nat) : List (List Byte) := (List.range k).map (segmentOf s.stream k)

/-- CH_START (44_decode.md R121): s_i for i < K, L from K on. -/
def startRegs (l k : Nat) : Vector Word 15 :=
  Vector.ofFn (fun i : Fin 15 => BitVec.ofNat 32 (if i.val < k then segStart l k i.val else l))

/-- The result registers of a decode: D, the bits used, the final state (44_decode.md R116, R130). -/
def decodedRegs (s : State) (bits fin : Nat) : Results :=
  { outCount := s.hdr.decLen, bitsUsed := BitVec.ofNat 32 bits, finalState := BitVec.ofNat 32 fin }

/-- The effects of a DECODE or TREE_DECODE that raised `e` (60_exceptions.md R146). -/
def failDecode (s : State) (e : Ending) : CommandResult := { state := s.voidOutput s.decodedLen, ending := e }

/-- The merge over the channel units' storage (44_decode.md R123, R124). -/
def State.merge (s : State) (k : Nat) : Merger :=
  Merger.walk s.table s.counts.states.toNat s.decodedLen s.bitCount s.convLimit.toNat (Merger.start s.decodedLen) 0 0 (s.segments k)
    s.work.channels

/-- CH_START and CH_CONV at completion (44_decode.md R121, R125). -/
def State.mergedConv (s : State) (k : Nat) (m : Merger) : Convergence := { start := startRegs s.streamLen k, conv := m.conv }

/-- What a finished merge leaves (44_decode.md R116, R125, R129): the results; or E_LENGTH with CH_START and CH_CONV written; or
E_CORRUPT with them unchanged. -/
def mergeResult (s : State) (k : Nat) (m : Merger) : CommandResult :=
  match m.raised with
  | some e => failDecode (if e.code = .length then s.setConv (s.mergedConv k m) else s) e
  | none =>
    if m.done then
      succeed ((s.storeDecoded m.emitted.rev.reverse (decodedRegs s m.emitted.bits m.fin)).setConv (s.mergedConv k m))
    else failDecode (s.setConv (s.mergedConv k m)) (lengthEnding m.emitted.w)

/-- The command-local storage ends with the command (10_state.md R43). -/
def CommandResult.releaseWork (r : CommandResult) : CommandResult := { r with state := r.state.setWork Workspace.none }

/-- DECODE before completion (44_decode.md R116): K first, then the phase (30_encoding.md R73). The speculative pass reads
every byte 0..L−1 for every K and D, K = 1 and D = 0 included, so that an invalid slot is E_CORRUPT even after the byte where SEQDECODE
stops (log 19). -/
def decodeRun (k : Nat) (s : State) : CommandResult :=
  if s.badCount k then raiseBadArg s k
  else if s.status.phase = .tables then
    match speculate s.table s.counts.states.toNat (s.segments k) with
    | .error e => failDecode s e
    | .ok channels =>
      let joined := s.setWork { s.work with channels := channels }
      (mergeResult joined k (joined.merge k)).releaseWork
  else raiseSeq s

/-- DECODE K (44_decode.md R116). -/
def execDecode (k : Nat) (s : State) : Host.Outcome State Fault Refusal := complete 0x04 (decodeRun k s)

end Machine
end Sys2Proof
end

