-- ==== Sys2Proof/Machine/Parse.lean ====
section
/-! DEFINITION. PARSE (41_parse.md R86 to R92). -/

namespace Sys2Proof
namespace Machine

/-- E_TRUNCATED with the number of the failed check (41_parse.md R88). -/
def truncatedBy (check : Nat) : Ending := { code := .truncated, info := BitVec.ofNat 32 check }

/-- The checks of PARSE in their order (41_parse.md R86 to R89), on a packet of `len` bytes; all comparisons are exact
(00_scope.md R8). -/
def checkHeader (len outBytes : Nat) (h : PacketHeader) : Except Ending PacketHeader :=
  if len < 12 then .error (truncatedBy 1)
  else if h.nsym = 0 ∨ h.nsym = 1 ∨ Config.maxSymbols < h.nsym then .error { code := .symtab, info := BitVec.ofNat 32 h.nsym }
  else if len < 24 + 8 * h.nsym then .error (truncatedBy 2)
  else if len < h.total then .error (truncatedBy 3)
  else if len < 24 + 8 * h.nsym + h.encLen then .error (truncatedBy 4)
  else if 8 * h.encLen < h.bits then .error (truncatedBy 5)
  else if outBytes < h.decLen then .error { code := .outSize, info := BitVec.ofNat 32 h.decLen }
  else .ok h

/-- The header of the packet in PKT_MEM, or the first check that fails (41_parse.md R86). -/
def readHeader (s : State) : Except Ending PacketHeader :=
  checkHeader s.pktLen.toNat s.params.outBytes (s.headerAt (s.le32 8))

/-- SYMTAB[0..n−1] from the packet, in packet order (41_parse.md R90); the other entries stay. -/
def latchedSymtab (s : State) (n : Nat) : Vector SymEntry 12 :=
  Vector.ofFn (fun j : Fin 12 => if j.val < n then s.packetEntry j.val else s.symtab[j.val])

/-- PARSE before completion: R90 on success, R91 on failure. -/
def parseRun (s : State) : CommandResult :=
  match readHeader s with
  | .ok h => succeed (s.latchHeader h.registers (latchedSymtab s h.nsym))
  | .error e => { state := s.dropHeader, ending := e }

/-- PARSE (41_parse.md R86). It is accepted in every phase. -/
def execParse (s : State) : Host.Outcome State Fault Refusal := complete 0x01 (parseRun s)

end Machine
end Sys2Proof
end

