-- ==== Sys2Proof/Machine/Control.lean ====
section
/-! DEFINITION. The control commands NOP, DECODE_PACKET and CLEAR (45_control.md R135, R137, R138), and the completion of an illegal
command word (30_encoding.md R72). -/

namespace Sys2Proof
namespace Machine

/-- NOP (45_control.md R135): completion and nothing else. -/
def execNop (s : State) : Host.Outcome State Fault Refusal := complete 0x00 (succeed s)

/-- DECODE_PACKET before completion (45_control.md R137): the K check, then the four steps, stopping at the first that raises. -/
def decodePacketRun (k : Nat) (s : State) : CommandResult :=
  if s.badCount k then raiseBadArg s k
  else (((parseRun s).andThen buildTreeRun).andThen genTablesRun).andThen (decodeRun k)

/-- DECODE_PACKET K (45_control.md R137). -/
def execDecodePacket (k : Nat) (s : State) : Host.Outcome State Fault Refusal := complete 0x07 (decodePacketRun k s)

/-- CLEAR (45_control.md R138). -/
def execClear (s : State) : Host.Outcome State Fault Refusal := complete 0x08 (succeed s.clearDerived)

/-- An illegal command word (30_encoding.md R72, 60_exceptions.md R145): E_BADCMD with the whole word as ERR_INFO; nothing else
changes. -/
def illegalRun (c : Word) (s : State) : CommandResult := raiseErr s .badCmd c

/-- The completion of an illegal command word; LAST_OP is its bits [7:0] (60_exceptions.md R140). -/
def completeIllegal (c : Word) (s : State) : Host.Outcome State Fault Refusal := complete (opField c) (illegalRun c s)

end Machine
end Sys2Proof
end

