-- ==== Sys2Proof/Machine/TreeWalk.lean ====
section
/-! DEFINITION. The bit-by-bit tree-walk decoder: TREE_DECODE (44_decode.md R130). -/

namespace Sys2Proof
namespace Machine

/-- Where the tree walk stands (44_decode.md R130): p bits read, the node, and the output with its length. -/
structure TreeWalk where
  p : Nat
  cur : Nat
  w : Nat
  rev : List Byte
  deriving DecidableEq, Repr

/-- E_CORRUPT for the node x being left (44_decode.md R130): (state(x) << 8) | 0xFF. -/
def corruptNode (nodes : List TreeNode) (x : Nat) : Ending :=
  { code := .corrupt, info := BitVec.ofNat 32 ((nodeAt nodes x).value.toNat * 256 + 255) }

/-- The child of node x that a bit selects, with the defensive check of R130: its index is below NODE_COUNT and its KIND is LEAF or
INTERNAL. -/
def checkedChild (nodes : List TreeNode) (count x : Nat) (bit : Bool) : Except Ending Nat :=
  let child := childOf nodes x bit
  if count ≤ child ∨ ((nodeAt nodes child).isLeaf = false ∧ (nodeAt nodes child).isInternal = false) then
    .error (corruptNode nodes x)
  else .ok child

/-- The first loop of R130, over the bits from bit p on: until D symbols are out, or E_LENGTH where bit B is reached. It answers
the bits that are left as well. -/
def walkSymbols (nodes : List TreeNode) (count d b : Nat) : List Bool → TreeWalk → Except Ending (TreeWalk × List Bool)
  | [], t => if t.w < d then .error (lengthEnding t.w) else .ok (t, [])
  | bit :: rest, t =>
    if t.w < d then
      if t.p = b then .error (lengthEnding t.w)
      else
        match checkedChild nodes count t.cur bit with
        | .error e => .error e
        | .ok child =>
          if (nodeAt nodes child).isLeaf then
            walkSymbols nodes count d b rest
              { p := t.p + 1, cur := 0, w := t.w + 1, rev := (nodeAt nodes child).value :: t.rev }
          else walkSymbols nodes count d b rest { t with p := t.p + 1, cur := child }
    else .ok (t, bit :: rest)

/-- The second loop of R130: finish the byte, emitting nothing; it answers the node where it ends. -/
def finishByte (nodes : List TreeNode) (count : Nat) : List Bool → Nat → Nat → Except Ending Nat
  | [], _, cur => .ok cur
  | bit :: rest, p, cur =>
    if p % 8 = 0 then .ok cur
    else
      match checkedChild nodes count cur bit with
      | .error e => .error e
      | .ok child => finishByte nodes count rest (p + 1) (if (nodeAt nodes child).isLeaf then 0 else child)

/-- The whole walk (44_decode.md R130): the output, the bits used and the final state, or the error. -/
def treeWalk (nodes : List TreeNode) (count d b : Nat) (bits : List Bool) : Except Ending (TreeWalk × Nat) :=
  match walkSymbols nodes count d b bits { p := 0, cur := 0, w := 0, rev := [] } with
  | .error e => .error e
  | .ok (t, rest) =>
    match (if 0 < d then finishByte nodes count rest t.p t.cur else .ok t.cur) with
    | .error e => .error e
    | .ok cur => .ok (t, (nodeAt nodes cur).value.toNat)

/-- TREE_DECODE before completion (44_decode.md R130). The walk of D = 0 reads no bit and ends in state 0. -/
def treeDecodeRun (s : State) : CommandResult :=
  if s.phaseAtLeast .tree then
    match treeWalk s.tree.nodes s.counts.nodes.toNat s.decodedLen s.bitCount (streamBits s.stream) with
    | .error e => failDecode s e
    | .ok (t, fin) => succeed (s.storeDecoded t.rev.reverse (decodedRegs s t.p fin))
  else raiseSeq s

/-- TREE_DECODE (44_decode.md R130). -/
def execTreeDecode (s : State) : Host.Outcome State Fault Refusal := complete 0x05 (treeDecodeRun s)

end Machine
end Sys2Proof
end

