-- ==== Sys2Proof/Machine/Dispatch.lean ====
section
/-! DEFINITION. The meaning of every command: one arm per constructor of Instr, each one direct call. -/

namespace Sys2Proof
namespace Machine

/-- The completion of command `i` in the state `s` in which it runs (10_state.md R9: a command is one step of the sequencer). -/
def exec (i : Instr) (s : State) : Host.Outcome State Fault Refusal :=
  match i with
  | .nop => Sys2Proof.Machine.execNop s
  | .parse => Sys2Proof.Machine.execParse s
  | .buildTree => Sys2Proof.Machine.execBuildTree s
  | .genTables => Sys2Proof.Machine.execGenTables s
  | .decode k => Sys2Proof.Machine.execDecode k s
  | .treeDecode => Sys2Proof.Machine.execTreeDecode s
  | .heapOrder => Sys2Proof.Machine.execHeapOrder s
  | .decodePacket k => Sys2Proof.Machine.execDecodePacket k s
  | .clear => Sys2Proof.Machine.execClear s

end Machine
end Sys2Proof
end

