-- ==== Sys2Proof/Machine/Flags.lean ====
section
/-! DEFINITION. The STATUS flags (10_state.md R18, R19): how the register reads, how a host write clears its W1C bits, how the
sticky bits are set, and the interrupt output (60_exceptions.md R150). DONE, ERR, ERR_CODE and LAST_OP are written at acceptance
and at completion (`State.accept`, `State.finish`), PHASE by the commands and by packet writes. -/

namespace Sys2Proof
namespace Machine

/-- A flag as the number that its bit stands for. -/
def flagAt (bit : Nat) (b : Bool) : Nat := if b then 2 ^ bit else 0

/-- The word STATUS reads as (10_state.md R18); the reserved bits are 0. -/
def State.statusWord (s : State) : Word :=
  BitVec.ofNat 32
    (flagAt 0 s.busy + flagAt 1 s.status.done + flagAt 2 s.status.err + flagAt 3 s.status.cmdDrop + flagAt 4 s.status.accDrop
      + flagAt 5 s.status.busErr + s.status.phase.toNat * 2 ^ 8 + s.status.errCode.toNat * 2 ^ 16 + s.status.lastOp.toNat * 2 ^ 24)

/-- A host write of v to STATUS clears each W1C bit whose bit in v is 1 and changes nothing else (10_state.md R19). -/
def Status.clearBy (st : Status) (v : Word) : Status :=
  { st with
    done := st.done && !v.getLsbD 1
    err := st.err && !v.getLsbD 2
    cmdDrop := st.cmdDrop && !v.getLsbD 3
    accDrop := st.accDrop && !v.getLsbD 4
    busErr := st.busErr && !v.getLsbD 5 }

/-- STATUS.CMD_DROP ← 1 (20_memory.md R55). -/
def State.markCmdDrop (s : State) : State := s.setStatus { s.status with cmdDrop := true }

/-- STATUS.ACC_DROP ← 1 (20_memory.md R55). -/
def State.markAccDrop (s : State) : State := s.setStatus { s.status with accDrop := true }

/-- STATUS.BUS_ERR ← 1 (20_memory.md R52). -/
def State.markBusErr (s : State) : State := s.setStatus { s.status with busErr := true }

/-- The interrupt output: IRQ = CTRL.IRQ_EN & STATUS.DONE (60_exceptions.md R150). -/
def State.irq (s : State) : Bool := s.irqEn && s.status.done

end Machine
end Sys2Proof
end

