-- ==== Sys2Proof/Machine/Reset.lean ====
section
/-! DEFINITION. Hardware reset, soft reset and the abort of a running command (70_reset_and_hazards.md R157 to R159). -/

namespace Sys2Proof
namespace Machine

/-- The memory regions that the abort of a running command leaves unspecified (70_reset_and_hazards.md R159). For DECODE_PACKET the
N and D of OUT_MEM's region are those of the packet its PARSE step reads; if that step fails, no output region is touched
(log 9). -/
def abortRunning (c : Word) (s : State) : State :=
  match decodeWord c with
  | .error _ => s
  | .ok .nop => s
  | .ok .parse => s
  | .ok .clear => s
  | .ok .buildTree => s.scrambleTree
  | .ok .genTables => s.scrambleTable
  | .ok (.decode _) => s.scrambleOut s.decodedLen
  | .ok .treeDecode => s.scrambleOut s.decodedLen
  | .ok .heapOrder => s.scrambleOut s.symbolCount
  | .ok (.decodePacket _) =>
    match readHeader s with
    | .ok h => (s.scrambleTree.scrambleTable).scrambleOut (max h.decLen h.nsym)
    | .error _ => s.scrambleTree.scrambleTable

/-- The abort of whatever is running (70_reset_and_hazards.md R159). -/
def State.abort (s : State) : State :=
  match s.fetched with
  | none => s
  | some c => abortRunning c s

/-- The registers and the internal state at their reset values (10_state.md R45), SYMTAB unspecified (log 4); the parameters, the
memories, the pins, the pending events and the host port stay. -/
def State.resetRegisters (s : State) : State :=
  { State.reset with
    params := s.params
    symtab := freeSymtab s.draws
    pkt := s.pkt
    out := s.out
    tree := s.tree
    table := s.table
    rst := s.rst
    events := s.events
    resp := s.resp
    draws := s.draws + 1 }

/-- Soft reset (70_reset_and_hazards.md R158): the running command is aborted, the memories keep their other bytes. -/
def State.softReset (s : State) : State := s.abort.resetRegisters

/-- All four memories become unspecified (10_state.md R45, 70_reset_and_hazards.md R157). -/
def State.loseMemories (s : State) : State :=
  { s with
    pkt := Memory.unspecified s.draws
    out := Memory.unspecified (s.draws + 1)
    tree := Memory.unspecified (s.draws + 2)
    table := Memory.unspecified (s.draws + 3)
    draws := s.draws + 4 }

/-- Hardware reset while RST is asserted (70_reset_and_hazards.md R157). -/
def State.hardwareReset (s : State) : State := (s.loseMemories.resetRegisters).setRst true

end Machine
end Sys2Proof
end

