-- ==== Sys2Proof/Machine/HostPort.lean ====
section
/-! DEFINITION. The host port: the address map (20_memory.md R48), error responses (R50 to R52), the register window (10_state.md R11 to
R38), accesses while a command runs (20_memory.md R55) and the side effects of writes (R56, R57). -/

namespace Sys2Proof
namespace Machine

/-! ## The register window (10_state.md R11) -/

/-- The registers of the window. -/
inductive Reg where
  | id
  | version
  | config
  | pktSize
  | outSize
  | ctrl
  | status
  | cmd
  | pktLen
  | convLimit
  | errInfo
  | hdrTotalLo
  | hdrTotalHi
  | hdrNsym
  | hdrBits
  | hdrEncLen
  | hdrDecLen
  | nodeCount
  | stateCount
  | maxCodeLen
  | outCount
  | bitsUsed
  | finalState
  | chStart (i : Fin 15)
  | chConv (i : Fin 15)
  deriving DecidableEq, Repr

/-- The offset of a register (10_state.md R11). -/
def Reg.offset : Reg → Nat
  | .id => 0x000
  | .version => 0x004
  | .config => 0x008
  | .pktSize => 0x00C
  | .outSize => 0x010
  | .ctrl => 0x020
  | .status => 0x024
  | .cmd => 0x028
  | .pktLen => 0x02C
  | .convLimit => 0x030
  | .errInfo => 0x034
  | .hdrTotalLo => 0x040
  | .hdrTotalHi => 0x044
  | .hdrNsym => 0x048
  | .hdrBits => 0x04C
  | .hdrEncLen => 0x050
  | .hdrDecLen => 0x054
  | .nodeCount => 0x058
  | .stateCount => 0x05C
  | .maxCodeLen => 0x060
  | .outCount => 0x064
  | .bitsUsed => 0x068
  | .finalState => 0x06C
  | .chStart i => 0x080 + 4 * i.val
  | .chConv i => 0x0C0 + 4 * i.val

/-- CH_START or CH_CONV by number, when there is such a one. -/
def channelReg (mk : Fin 15 → Reg) (i : Nat) : Option Reg := if h : i < 15 then some (mk ⟨i, h⟩) else none

/-- The register at a word offset of the window, if one is defined there (10_state.md R11, R38). -/
def regAt (off : Nat) : Option Reg :=
  match off with
  | 0x000 => some .id
  | 0x004 => some .version
  | 0x008 => some .config
  | 0x00C => some .pktSize
  | 0x010 => some .outSize
  | 0x020 => some .ctrl
  | 0x024 => some .status
  | 0x028 => some .cmd
  | 0x02C => some .pktLen
  | 0x030 => some .convLimit
  | 0x034 => some .errInfo
  | 0x040 => some .hdrTotalLo
  | 0x044 => some .hdrTotalHi
  | 0x048 => some .hdrNsym
  | 0x04C => some .hdrBits
  | 0x050 => some .hdrEncLen
  | 0x054 => some .hdrDecLen
  | 0x058 => some .nodeCount
  | 0x05C => some .stateCount
  | 0x060 => some .maxCodeLen
  | 0x064 => some .outCount
  | 0x068 => some .bitsUsed
  | 0x06C => some .finalState
  | n =>
    if n % 4 ≠ 0 then none
    else if 0x0C0 ≤ n then channelReg .chConv ((n - 0x0C0) / 4)
    else if 0x080 ≤ n then channelReg .chStart ((n - 0x080) / 4)
    else none

/-- CONFIG (10_state.md R14): K_MAX, MAX_EMIT, MAX_SYMBOLS and MAX_NODES in their fields. -/
def configWord (p : Config.Params) : Word :=
  BitVec.ofNat 32
    (p.kMax % 16 + Config.maxEmit * 2 ^ 8 + Config.maxSymbols * 2 ^ 16 + Config.maxNodes * 2 ^ 24)

/-- What a read of a register returns (10_state.md R12 to R37). CMD reads 0 (R21), CTRL.SRST reads 0 (R17). -/
def State.regValue (s : State) : Reg → Word
  | .id => 0x4D534648
  | .version => 7
  | .config => configWord s.params
  | .pktSize => BitVec.ofNat 32 s.params.pktBytes
  | .outSize => BitVec.ofNat 32 s.params.outBytes
  | .ctrl => BitVec.ofNat 32 (flagAt 0 s.irqEn)
  | .status => s.statusWord
  | .cmd => 0
  | .pktLen => s.pktLen
  | .convLimit => s.convLimit
  | .errInfo => s.errInfo
  | .hdrTotalLo => s.hdr.totalLo
  | .hdrTotalHi => s.hdr.totalHi
  | .hdrNsym => s.hdr.nsym
  | .hdrBits => s.hdr.bits
  | .hdrEncLen => s.hdr.encLen
  | .hdrDecLen => s.hdr.decLen
  | .nodeCount => s.counts.nodes
  | .stateCount => s.counts.states
  | .maxCodeLen => s.counts.maxCodeLen
  | .outCount => s.results.outCount
  | .bitsUsed => s.results.bitsUsed
  | .finalState => s.results.finalState
  | .chStart i => s.conv.start[i.val]
  | .chConv i => s.conv.conv[i.val]

/-- A read of the register window: a reserved offset reads 0 (10_state.md R38). -/
def State.readWindow (s : State) (off : Nat) : Word :=
  match regAt off with
  | some r => s.regValue r
  | none => 0

/-- A write of v to a register. Only CTRL, STATUS, CMD, PKT_LEN and CONV_LIMIT are writable; while a command runs a write to the
last three is dropped (10_state.md R17 to R23, 20_memory.md R55). -/
def State.writeReg (s : State) (v : Word) : Reg → State
  | .ctrl => if v.getLsbD 1 then s.softReset else s.setIrqEn (v.getLsbD 0)
  | .status => s.setStatus (s.status.clearBy v)
  | .cmd => if s.busy then s.markCmdDrop else s.accept v
  | .pktLen => if s.busy then s.markCmdDrop else s.setPktLen v
  | .convLimit => if s.busy then s.markCmdDrop else s.setConvLimit v
  | .id | .version | .config | .pktSize | .outSize | .errInfo => s
  | .hdrTotalLo | .hdrTotalHi | .hdrNsym | .hdrBits | .hdrEncLen | .hdrDecLen => s
  | .nodeCount | .stateCount | .maxCodeLen | .outCount | .bitsUsed | .finalState => s
  | .chStart _ | .chConv _ => s

/-- A write to the register window: a reserved offset ignores it (10_state.md R38). -/
def State.writeWindow (s : State) (off : Nat) (v : Word) : State :=
  match regAt off with
  | some r => s.writeReg v r
  | none => s

/-! ## The address map (20_memory.md R48) -/

/-- The window an address lies in, with the offset in it. -/
inductive Window where
  | regs (off : Nat)
  | tree (off : Nat)
  | table (off : Nat)
  | pkt (off : Nat)
  | out (off : Nat)
  | unmapped
  deriving DecidableEq, Repr

/-- The window of an 18-bit address (20_memory.md R48). -/
def windowOf (a : HostAddr) : Window :=
  let n := a.toNat
  if n < 0x01000 then .regs n
  else if n < 0x02000 then .tree (n - 0x01000)
  else if n < 0x10000 then .unmapped
  else if n < 0x20000 then .table (n - 0x10000)
  else if n < 0x30000 then .pkt (n - 0x20000)
  else .out (n - 0x30000)

/-- The shape a memory window accepts (20_memory.md R51): 1, 2 or 4 bytes, naturally aligned. -/
def naturalAccess (n : Nat) (a : HostAddr) : Bool := (n == 1 || n == 2 || n == 4) && a.toNat % n == 0

/-- The shape the register window accepts (20_memory.md R51): 4 bytes, aligned. -/
def wordAccess (n : Nat) (a : HostAddr) : Bool := n == 4 && a.toNat % 4 == 0

/-- Whether a transaction gets an error response (20_memory.md R49 to R52), whether or not a command is running (R55). -/
def busError (p : Config.Params) (write : Bool) (n : Nat) (a : HostAddr) : Bool :=
  match windowOf a with
  | .regs _ => !wordAccess n a
  | .tree _ | .table _ => write || !naturalAccess n a
  | .pkt off => !naturalAccess n a || decide (p.pktBytes < off + n)
  | .out off => !naturalAccess n a || decide (p.outBytes < off + n)
  | .unmapped => true

/-- `n` bytes of a window over a memory of `size` bytes; offsets from `size` on read 0 (20_memory.md R50). -/
def windowBytes (m : Memory) (size off n : Nat) : List Byte :=
  (List.range n).map (fun k => if off + k < size then m.byte (off + k) else 0)

/-- The data of a read that is neither an error nor dropped (20_memory.md R53). -/
def State.readData (s : State) (n : Nat) (a : HostAddr) : Word :=
  match windowOf a with
  | .regs off => s.readWindow off
  | .tree off => BitVec.ofNat 32 (fromBytes (windowBytes s.tree Config.treeBytes off n))
  | .table off => BitVec.ofNat 32 (fromBytes (windowBytes s.table Config.tableBytes off n))
  | .pkt off => BitVec.ofNat 32 (s.pkt.le off n)
  | .out off => BitVec.ofNat 32 (s.out.le off n)
  | .unmapped => 0

/-- Whether an address lies in a memory window, whose accesses are dropped while a command runs (20_memory.md R55). -/
def inMemoryWindow (a : HostAddr) : Bool :=
  match windowOf a with
  | .tree _ | .table _ | .pkt _ | .out _ => true
  | .regs _ | .unmapped => false

/-- The effect of a write that is neither an error nor dropped (20_memory.md R49, R53, R57). -/
def State.writeData (s : State) (n : Nat) (a : HostAddr) (v : Word) : State :=
  match windowOf a with
  | .regs off => s.writeWindow off v
  | .pkt off => s.hostPacket off (toBytes n v.toNat)
  | .out off => s.hostOutput off (toBytes n v.toNat)
  | .tree _ | .table _ | .unmapped => s

/-- A host read of n bytes at a. While RST is asserted it has no effect and returns 0 (70_reset_and_hazards.md R157), and that it is
then never an error response, whatever its width and address, is the model's choice (log 21). Otherwise, an error
response returns 0 and sets BUS_ERR (20_memory.md R52); a memory access while a command runs returns 0 and sets ACC_DROP (R55). -/
def hostRead (n : Nat) (a : HostAddr) (s : State) : State :=
  if s.rst then s.answer false 0
  else if busError s.params false n a then s.markBusErr.answer true 0
  else if s.busy && inMemoryWindow a then s.markAccDrop.answer false 0
  else s.answer false (s.readData n a)

/-- A host write of the low n bytes of v at a, with the same three exceptions; under RST it is never an error response either
(log 21). -/
def hostWrite (n : Nat) (a : HostAddr) (v : Word) (s : State) : State :=
  if s.rst then s.answer false 0
  else if busError s.params true n a then s.markBusErr.answer true 0
  else if s.busy && inMemoryWindow a then s.markAccDrop.answer false 0
  else (s.writeData n a v).answer false 0

end Machine
end Sys2Proof
end

