-- ==== Sys2Proof/Machine/Step.lean ====
section
/-! DEFINITION. One step of the machine (10_state.md R9, 20_memory.md R60): the first pending event happens; where none is pending,
or the event is the sequencer's turn, a running command completes. -/

namespace Sys2Proof
namespace Machine

/-- The sequencer's move: the running word is decoded and its command completes (60_exceptions.md R140), an illegal word with
E_BADCMD (30_encoding.md R72, R73). An idle sequencer does nothing. -/
def sequencerStep (s : State) : Host.Outcome State Fault Refusal :=
  match s.fetched with
  | none => .next s
  | some c =>
    match decodeWord c with
    | .ok i => exec i s
    | .error _ => completeIllegal c s

/-- One step. -/
def step (s : State) : Host.Outcome State Fault Refusal :=
  match s.events with
  | [] => sequencerStep s
  | .sequencer :: es => sequencerStep (s.withEvents es)
  | .read n a :: es => .next (hostRead n a (s.withEvents es))
  | .write n a v :: es => .next (hostWrite n a v (s.withEvents es))
  | .assertRst :: es => .next (s.withEvents es).hardwareReset
  | .releaseRst :: es => .next ((s.withEvents es).setRst false)

/-- `s` right after the acceptance of the command word whose low `nbits` bits are `w` (60_exceptions.md R139), with the
sequencer's turn next: the very next step runs that command. It stands for a host write of the word to CMD (log 10). -/
def State.withFetchWord (s : State) (nbits w : Nat) : State :=
  (s.accept (tableWord nbits w)).withEvents (.sequencer :: s.events)

end Machine
end Sys2Proof
end

