-- ==== Sys2Proof/Machine/Assembler.lean ====
section
/-! DEFINITION. The assembler syntax for host programs (30_encoding.md R78 to R84): commands, transactions and pseudo-instructions, as
the lists of events they expand to. -/

namespace Sys2Proof
namespace Machine

/-- A command as written: its mnemonic, and the k of `K=<k>` where that is given (30_encoding.md R78). -/
structure AsmCommand where
  mnemonic : String
  count : Option Nat
  deriving DecidableEq, Repr

/-- The command that a mnemonic and an operand stand for. A missing `K=` on DECODE or DECODE_PACKET and a `K=` on another mnemonic
are refused, and so is a mnemonic the opcode map does not have (R78). -/
def AsmCommand.instr? (c : AsmCommand) : Option Instr :=
  match c.count with
  | none => [Instr.nop, .parse, .buildTree, .genTables, .treeDecode, .heapOrder, .clear].find? (fun i => i.mnemonic == c.mnemonic)
  | some k => [Instr.decode k, .decodePacket k].find? (fun i => i.mnemonic == c.mnemonic)

/-- The command word of a written command; k outside 1..15 is refused (R78). -/
def AsmCommand.assemble (c : AsmCommand) : Option Word :=
  match c.instr? with
  | some i => if i.assemblable then some (encode i) else none
  | none => none

/-- An address as written (30_encoding.md R79). -/
inductive AsmAddr where
  | number (a : HostAddr)
  | register (r : Reg)
  | pkt (o : Nat)
  | out (o : Nat)
  | tree (o : Nat)
  | table (o : Nat)
  deriving DecidableEq, Repr

/-- The host address of a written address (R79). An offset that carries the sum past the 18-bit address space wraps modulo 2^18, the
model's choice (log 20). -/
def AsmAddr.resolve : AsmAddr → HostAddr
  | .number a => a
  | .register r => BitVec.ofNat 18 r.offset
  | .pkt o => BitVec.ofNat 18 (0x20000 + o)
  | .out o => BitVec.ofNat 18 (0x30000 + o)
  | .tree o => BitVec.ofNat 18 (0x01000 + o)
  | .table o => BitVec.ofNat 18 (0x10000 + o)

/-- `RD8`, `RD16` and `RD32` (R79), by the number of bytes. -/
def asmRead (n : Nat) (a : AsmAddr) : List Event := [.read n a.resolve]

/-- `WR8`, `WR16` and `WR32` (R79), by the number of bytes. -/
def asmWrite (n : Nat) (a : AsmAddr) (v : Word) : List Event := [.write n a.resolve v]

/-- `ISSUE <command>` = `WR32 CMD, <command word>` (R80). -/
def asmIssue (w : Word) : List Event := asmWrite 4 (.register .cmd) w

/-- `WAIT` (R81): reads of STATUS until one shows BUSY = 0. The loop's length depends on when the sequencer moves: `polls` reads find
the command still running, then it completes, then one more read ends the loop. -/
def asmWait (polls : Nat) : List Event :=
  (List.replicate polls (asmRead 4 (.register .status))).flatten ++ .sequencer :: asmRead 4 (.register .status)

/-- `RUN <command>` = `ISSUE <command>`, then `WAIT` (R82). -/
def asmRun (w : Word) (polls : Nat) : List Event := asmIssue w ++ asmWait polls

/-- `LOADPKT w0 w1 … ; len` (R83): the words to PKT+0, PKT+4, …, then len to PKT_LEN. -/
def asmLoadPacket (ws : List Word) (len : Word) : List Event :=
  ws.zipIdx.flatMap (fun p => asmWrite 4 (.pkt (4 * p.2)) p.1) ++ asmWrite 4 (.register .pktLen) len

/-- `ACK` = `WR32 STATUS, 0x0000003E` (R84). -/
def asmAck : List Event := asmWrite 4 (.register .status) 0x0000003E

end Machine
end Sys2Proof
end

