-- ==== Sys2Proof/Safety.lean ====
section
/-! DEFINITION. The terms in which claims about HFSM are made: the invariant of the machine, the shape of a full tree, valid tables,
the end of a run and what is observed there (70_reset_and_hazards.md R169). -/

namespace Sys2Proof
namespace Machine

/-! ## What a phase promises (10_state.md R20) -/

/-- PHASE ≥ PARSED: the header registers and SYMTAB are those of the packet now in PKT_MEM, and it passes every check of PARSE. -/
structure PacketLatched (s : State) : Prop where
  accepted : readHeader s = .ok (s.headerAt s.symbolCount)
  header : s.hdr = (s.headerAt s.symbolCount).registers
  entries : ∀ j : Fin 12, j.val < s.symbolCount → s.symtab[j.val] = s.packetEntry j.val

/-- PHASE ≥ TREE: TREE_MEM and the three counts are those of the symbol table. -/
structure TreeBuilt (s : State) : Prop where
  image : s.tree.bytes 0 Config.treeBytes = treeImage (treeOf s.symbols)
  counts : s.counts = countsFor s.symbolCount (deepestLeaf (grownTree s.symbols).2 (rootOf (grownTree s.symbols).1))

/-- PHASE = TABLES: TABLE_MEM holds the tables of the tree. -/
structure TablesBuilt (s : State) : Prop where
  image : s.table.bytes 0 Config.tableBytes = tableImage (treeEntries (treeOf s.symbols)) (s.symbolCount - 1)

/-- The invariant of the machine: it holds right after reset and every step keeps it. -/
structure State.Inv (s : State) : Prop where
  /-- The parameters are within the bounds of 00_scope.md R7. -/
  params : s.params.Ok
  /-- The memories keep their canonical form and their sizes (20_memory.md R47). -/
  pktWf : s.pkt.wf s.params.pktBytes
  outWf : s.out.wf s.params.outBytes
  treeWf : s.tree.wf Config.treeBytes
  tableWf : s.table.wf Config.tableBytes
  /-- PKT_LEN never claims bytes that PKT_MEM does not have (10_state.md R22). -/
  pktLen : s.pktLen.toNat ≤ s.params.pktBytes
  /-- N, D and OUT_COUNT stay within their bounds (41_parse.md R87, R89). -/
  symbolCount : s.symbolCount ≤ Config.maxSymbols
  decodedLen : s.decodedLen ≤ s.params.outBytes
  outCount : s.results.outCount.toNat ≤ s.params.outBytes
  /-- Nothing runs while RST is asserted (70_reset_and_hazards.md R157). -/
  rstIdle : s.rst = true → s.sequencer = .idle
  /-- The heap, the node pool and the channel storage exist only during one command (10_state.md R40, R41, R43); outside it the model
  keeps them empty (log 7). -/
  workNone : s.work = Workspace.none
  /-- STATUS.ERR shows an error code, and ERR_INFO is 0 without one (10_state.md R18, R24). -/
  errShown : s.status.err = true → s.status.errCode ≠ .ok
  infoZero : s.status.errCode = .ok → s.errInfo = 0
  /-- What the phase promises (10_state.md R20). -/
  latched : s.phaseAtLeast .parsed = true → PacketLatched s
  built : s.phaseAtLeast .tree = true → TreeBuilt s
  tables : s.phaseAtLeast .tables = true → TablesBuilt s

/-! ## Trees, tables and the automaton -/

/-- A full binary tree of n leaves in the breadth-first layout (42_tree.md R98, R99, R103). -/
structure FullTree (nodes : List TreeNode) (n : Nat) : Prop where
  /-- 2n − 1 nodes, each of them a leaf or internal. -/
  size : nodes.length = 2 * n - 1
  kinds : ∀ x ∈ nodes, x.isLeaf = true ∨ x.isInternal = true
  /-- Exactly n leaves and n − 1 internal nodes. -/
  leafCount : (nodes.filter TreeNode.isLeaf).length = n
  internalCount : (nodes.filter TreeNode.isInternal).length = n - 1
  /-- Every child index is greater than its parent's index and less than 2n − 1. -/
  children : ∀ i < nodes.length, (nodeAt nodes i).isInternal = true →
    ∀ bit, i < childOf nodes i bit ∧ childOf nodes i bit < nodes.length
  /-- The two children differ, and no node is a child of two. -/
  apart : ∀ i < nodes.length, ∀ j < nodes.length, (nodeAt nodes i).isInternal = true → (nodeAt nodes j).isInternal = true →
    ∀ b c, childOf nodes i b = childOf nodes j c → i = j ∧ b = c
  /-- State indices number the internal nodes from 0 on, in the order of their node indices. -/
  states : (nodes.filter TreeNode.isInternal).map (fun x => x.value.toNat) = List.range (n - 1)

/-- Every slot of a state in use passes the check of 44_decode.md R118. -/
def SlotsValid (table : Memory) (states : Nat) : Prop :=
  ∀ st < states, ∀ v : Byte, ∃ e, readSlot table states st v = .ok e

/-- The state of the byte-wise automaton after some bytes, from state `st` on (44_decode.md R119, R122); `none` once a slot fails its
check. -/
def automaton (table : Memory) (states : Nat) : Nat → List Byte → Option Nat
  | st, [] => some st
  | st, v :: rest =>
    match readSlot table states st v with
    | .error _ => none
    | .ok e => automaton table states e.next rest

/-- The true state after the first `n` bytes of the bitstream (44_decode.md R119). -/
def State.trueState (s : State) (n : Nat) : Option Nat := automaton s.table s.counts.states.toNat 0 (s.stream.take n)

/-- The state that a channel unit whose segment starts at byte `first` reaches after `c` bytes, from the assumed state 0
(44_decode.md R122). -/
def State.speculatedState (s : State) (first c : Nat) : Option Nat :=
  automaton s.table s.counts.states.toNat 0 ((s.stream.drop first).take c)

/-- The single-channel loop (44_decode.md R119) over the first `n` bytes of the bitstream leaves the D-th symbol pending. -/
def State.outputPending (s : State) (n : Nat) : Prop :=
  ∃ w < s.decodedLen,
    seqLoop s.table s.counts.states.toNat s.decodedLen s.bitCount (s.stream.take n) 0 0 Emitted.start = .error (lengthEnding w)

/-- A heap array in order: no entry is smaller than its parent (42_tree.md R94, R95). -/
def HeapOrdered (h : List HeapEntry) : Prop :=
  ∀ i, 0 < i → i < h.length → (heapAt h ((i - 1) / 2)).f.toNat ≤ (heapAt h i).f.toNat

/-! ## How a command ends -/

/-- STATUS after the completion of a command with opcode `op` that succeeds (60_exceptions.md R140). -/
def Status.succeeded (st : Status) (op : Byte) : Status :=
  { st with errCode := .ok, lastOp := op, err := false, done := true }

/-- STATUS after the completion of a command with opcode `op` that fails with `code` (60_exceptions.md R140). -/
def Status.failed (st : Status) (op : Byte) (code : ErrCode) : Status :=
  { st with errCode := code, lastOp := op, err := true, done := true }

/-! ## The end of a run (70_reset_and_hazards.md R169) -/

/-- A run is over when the host has performed its last transaction and the sequencer is idle. -/
def State.runOver (s : State) : Prop := s.events = [] ∧ s.sequencer = .idle

/-- What is observed at the end of a run: the register values, OUT_MEM[0..OUT_COUNT−1], and TREE_MEM and TABLE_MEM while PHASE
permits. The sticky STATUS bits are in the register values. -/
structure Observation where
  registers : List Word
  output : List Byte
  tree : Option (List Byte)
  table : Option (List Byte)
  deriving DecidableEq, Repr

/-- The observation of a state. -/
def State.observe (s : State) : Observation where
  registers := (List.range 1024).map (fun i => s.readWindow (4 * i))
  output := s.out.bytes 0 s.results.outCount.toNat
  tree := if s.phaseAtLeast .tree then some (s.tree.bytes 0 Config.treeBytes) else none
  table := if s.phaseAtLeast .tables then some (s.table.bytes 0 Config.tableBytes) else none

end Machine
end Sys2Proof
end

