-- ==== Sys2Proof/Certificates/Slice0/Obligations.lean ====
section
/-! DEFINITION. The statements about HFSM for the provers, from the numbered rules of spec/. -/

open Sys2Proof Sys2Proof.Machine

/-! ## Encoding (30_encoding.md §1) -/

/-- 30_encoding.md §1, §3: decoding the encoding of a well-formed command, with K at every value of its field, gives the command back. -/
def Obligations.DecodeOfEncode : Prop :=
  ∀ i : Instr, i.wf = true → decodeWord (encode i) = .ok i

/-- 30_encoding.md §1: a word that decodes to a command is the encoding of that command, and the command is well-formed: no two words mean the
same command and no bit of a word is dropped. -/
def Obligations.EncodeOfDecode : Prop :=
  ∀ (w : Word) (i : Instr), decodeWord w = .ok i → i.wf = true ∧ encode i = w

/-- R70: a word is a command exactly when it matches a row of the opcode map under the row's mask, the row is the one that carries
the command's mnemonic, and K is bits [11:8] of the word. -/
def Obligations.OpcodeMapRows : Prop :=
  (∀ w : Word, (∃ i, decodeWord w = .ok i) ↔ ∃ r ∈ opcodeRows, w &&& r.mask = r.pattern) ∧
  (∀ (w : Word) (i : Instr), decodeWord w = .ok i →
    ∀ r ∈ opcodeRows, w &&& r.mask = r.pattern ↔ r.mnemonic = i.mnemonic) ∧
  (∀ w : Word, w &&& 0xFFFFF0FF = 0x00000004 → decodeWord w = .ok (.decode ((w >>> 8) &&& 0xF).toNat)) ∧
  (∀ w : Word, w &&& 0xFFFFF0FF = 0x00000007 → decodeWord w = .ok (.decodePacket ((w >>> 8) &&& 0xF).toNat))

/-- 30_encoding.md §1: words written out from the opcode map, legal ones and illegal ones. -/
def Obligations.OpcodeMapWords : Prop :=
  decodeWord 0x00000000 = .ok .nop ∧ decodeWord 0x00000001 = .ok .parse ∧ decodeWord 0x00000002 = .ok .buildTree ∧
  decodeWord 0x00000003 = .ok .genTables ∧ decodeWord 0x00000404 = .ok (.decode 4) ∧ decodeWord 0x00000005 = .ok .treeDecode ∧
  decodeWord 0x00000006 = .ok .heapOrder ∧ decodeWord 0x00000107 = .ok (.decodePacket 1) ∧ decodeWord 0x00000008 = .ok .clear ∧
  decodeWord 0x00000009 = .error (.reservedOpcode 0x09) ∧ decodeWord 0x00001004 = .error .reservedBits ∧
  decodeWord 0x00000100 = .error .channelCount

/-- R72: the word c is illegal when OP is in 0x09–0xFF, or RSV ≠ 0, or K ≠ 0 and OP is neither DECODE nor DECODE_PACKET. Written to CMD
while the block is idle it is accepted (BUSY is set), and the next step of the sequencer completes it with E_BADCMD and the whole
word as ERR_INFO; nothing else changes. -/
def Obligations.IllegalWordCompletesBadCmd : Prop :=
  ∀ (s : State) (c : Word), s.rst = false → s.sequencer = .idle → s.events = [.write 4 0x00028 c] →
    (9 ≤ (c &&& 0xFF).toNat ∨ c >>> 12 ≠ 0 ∨ ((c >>> 8) &&& 0xF ≠ 0 ∧ c &&& 0xFF ≠ 4 ∧ c &&& 0xFF ≠ 7)) →
    ∃ a d, step s = .next a ∧ a.busy = true ∧
      step a = .next
        { s with
          events := []
          resp := { err := false, data := d }
          errInfo := c
          status := s.status.failed (c.setWidth 8) .badCmd
          sequencer := .idle }

/-- 30_encoding.md §3 (the command syntax): a mnemonic with its `K=` (1 to 15) where the command has one assembles to the encoding of
that command; every other parsed command (a missing or a superfluous `K=`, a k out of range, an unknown mnemonic) is refused. (That
the syntax starts from a parsed command, not from characters, is the model's choice, log 18.) -/
def Obligations.AssemblerWritesEncodings : Prop :=
  (∀ i : Instr, i.assemblable = true →
    AsmCommand.assemble { mnemonic := i.mnemonic, count := i.channelCount } = some (encode i)) ∧
  (∀ (c : AsmCommand) (w : Word), c.assemble = some w →
    ∃ i : Instr, i.assemblable = true ∧ c.mnemonic = i.mnemonic ∧ c.count = i.channelCount ∧ w = encode i)

/-! ## One step, acceptance and completion -/

/-- 10_state.md §1, §4, 30_encoding.md §1: where the running word decodes to a command and it is the sequencer's turn, a step is that command's completion, on the
state without the event that gave the turn; and so the step after `withFetchWord` runs the command that was placed. (The turn as an
event and the `withFetchWord` clause are the model's choice, logs 2 and 10.) -/
def Obligations.StepRunsDecodedCommand : Prop :=
  (∀ (s : State) (c : Word) (i : Instr), s.sequencer = .running c → decodeWord c = .ok i →
    (s.events = [] → step s = exec i s) ∧
    ∀ es, s.events = .sequencer :: es → step s = exec i { s with events := es }) ∧
  (∀ (s : State) (nbits w : Nat) (i : Instr), decodeTableWord nbits w = some i →
    step (s.withFetchWord nbits w) = exec i (s.accept (tableWord nbits w)))

/-- 70_reset_and_hazards.md §5 (no stuck states): every step of every state has a next state; and no step changes the parameters
(R171). -/
def Obligations.StepAlwaysGoesOn : Prop :=
  ∀ s : State, ∃ t, step s = .next t ∧ t.params = s.params

/-- R139: a 32-bit write of c to CMD while BUSY = 0 accepts c: BUSY ← 1, DONE ← 0, ERR ← 0 and nothing else of the block; the
interrupt output is then deasserted. While BUSY = 1 the write is dropped and sets CMD_DROP. -/
def Obligations.CmdWriteAcceptsOrDrops : Prop :=
  ∀ (s : State) (c : Word), s.rst = false →
    (s.sequencer = .idle →
      (∃ d, hostWrite 4 0x00028 c s =
        { s with
          sequencer := .running c
          status := { s.status with done := false, err := false }
          resp := { err := false, data := d } }) ∧
      (hostWrite 4 0x00028 c s).busy = true ∧ (hostWrite 4 0x00028 c s).irq = false) ∧
    (s.busy = true →
      ∃ d, hostWrite 4 0x00028 c s =
        { s with status := { s.status with cmdDrop := true }, resp := { err := false, data := d } })

/-- 60_exceptions.md §1, 10_state.md §3: every command completes: the sequencer is idle, DONE is 1, LAST_OP is the opcode, ERR is 1 exactly when ERR_CODE is not
0, and ERR_INFO is 0 on success. -/
def Obligations.EveryCommandCompletes : Prop :=
  ∀ (i : Instr) (s : State), ∃ t, exec i s = .next t ∧
    t.sequencer = .idle ∧ t.busy = false ∧ t.status.done = true ∧ t.status.lastOp = i.opcode ∧
    (t.status.err = true ↔ t.status.errCode ≠ .ok) ∧ (t.status.errCode = .ok → t.errInfo = 0)

/-! ## The commands -/

/-- R135: NOP, the word 0x00000000, does nothing but complete, in every phase. -/
def Obligations.NopOnlyCompletes : Prop :=
  decodeWord 0x00000000 = .ok .nop ∧
  ∀ s : State, exec .nop s = .next { s with errInfo := 0, status := s.status.succeeded 0x00, sequencer := .idle }

/-- R138: CLEAR, the word 0x00000008, sets PHASE to EMPTY and every register at 0x040–0x0FC to 0; PKT_LEN, CONV_LIMIT, CTRL and the
four memories keep their values. SYMTAB becomes meaningless (`tab`, `n`: whatever it holds then). -/
def Obligations.ClearDropsDerivedState : Prop :=
  decodeWord 0x00000008 = .ok .clear ∧
  ∀ s : State, ∃ tab n, exec .clear s = .next
    { s with
      hdr := { totalLo := 0, totalHi := 0, nsym := 0, bits := 0, encLen := 0, decLen := 0 }
      counts := { nodes := 0, states := 0, maxCodeLen := 0 }
      results := { outCount := 0, bitsUsed := 0, finalState := 0 }
      conv := { start := Vector.replicate 15 0, conv := Vector.replicate 15 0 }
      symtab := tab
      draws := n
      errInfo := 0
      status := { s.status.succeeded 0x08 with phase := .empty }
      sequencer := .idle }

/-- R90: a packet that passes every check of PARSE is latched: SYMTAB in packet order, the five header fields, the tree counts 0,
PHASE = PARSED, ERR_CODE 0 and ERR_INFO 0; nothing else changes. -/
def Obligations.ParseLatchesHeader : Prop :=
  ∀ (s : State) (n : Nat), n = s.le32 8 → 12 ≤ s.pktLen.toNat → 2 ≤ n → n ≤ 12 → 24 + 8 * n ≤ s.pktLen.toNat →
    s.le64 0 ≤ s.pktLen.toNat → 24 + 8 * n + s.le32 (16 + 8 * n) ≤ s.pktLen.toNat →
    s.le32 (12 + 8 * n) ≤ 8 * s.le32 (16 + 8 * n) → s.le32 (20 + 8 * n) ≤ s.params.outBytes →
    ∃ tab : Vector SymEntry 12,
      (∀ j : Fin 12, j.val < n →
        tab[j.val] = { freq := BitVec.ofNat 32 (s.le32 (12 + 8 * j.val)), sym := s.pkt.byte (16 + 8 * j.val) }) ∧
      exec .parse s = .next
        { s with
          symtab := tab
          hdr :=
            { totalLo := BitVec.ofNat 32 (s.le64 0)
              totalHi := BitVec.ofNat 32 (s.le64 0 / 2 ^ 32)
              nsym := BitVec.ofNat 32 n
              bits := BitVec.ofNat 32 (s.le32 (12 + 8 * n))
              encLen := BitVec.ofNat 32 (s.le32 (16 + 8 * n))
              decLen := BitVec.ofNat 32 (s.le32 (20 + 8 * n)) }
          counts := { nodes := 0, states := 0, maxCodeLen := 0 }
          errInfo := 0
          status := { s.status.succeeded 0x01 with phase := .parsed }
          sequencer := .idle }

/-- R87, R89, R91: the checks of PARSE in their order, each with its code and its ERR_INFO; a failed PARSE sets the header registers
and the tree counts to 0 and PHASE to EMPTY; SYMTAB becomes meaningless (`tab`, `m`); nothing else changes. -/
def Obligations.ParseRejectsInOrder : Prop :=
  ∀ (s : State) (len n : Nat), len = s.pktLen.toNat → n = s.le32 8 →
    let fails (code : ErrCode) (info : Nat) : Prop :=
      ∃ tab m, exec .parse s = .next
        { s with
          hdr := { totalLo := 0, totalHi := 0, nsym := 0, bits := 0, encLen := 0, decLen := 0 }
          counts := { nodes := 0, states := 0, maxCodeLen := 0 }
          symtab := tab
          draws := m
          errInfo := BitVec.ofNat 32 info
          status := { s.status.failed 0x01 code with phase := .empty }
          sequencer := .idle }
    (len < 12 → fails .truncated 1) ∧
    (12 ≤ len → (n = 0 ∨ n = 1 ∨ 12 < n) → fails .symtab n) ∧
    (12 ≤ len → 2 ≤ n → n ≤ 12 →
      (len < 24 + 8 * n → fails .truncated 2) ∧
      (24 + 8 * n ≤ len →
        (len < s.le64 0 → fails .truncated 3) ∧
        (s.le64 0 ≤ len →
          (len < 24 + 8 * n + s.le32 (16 + 8 * n) → fails .truncated 4) ∧
          (24 + 8 * n + s.le32 (16 + 8 * n) ≤ len →
            (8 * s.le32 (16 + 8 * n) < s.le32 (12 + 8 * n) → fails .truncated 5) ∧
            (s.le32 (12 + 8 * n) ≤ 8 * s.le32 (16 + 8 * n) →
              s.params.outBytes < s.le32 (20 + 8 * n) → fails .outSize (s.le32 (20 + 8 * n)))))))

/-- R101: HEAP_ORDER is the word 0x00000006. With PHASE < PARSED it completes with E_SEQ. With PHASE ≥ PARSED it seeds the heap in table
order, pops it N times, writes the popped symbols to OUT_MEM from 0 on and N to OUT_COUNT, and completes; nothing else changes. (That
the workspace is empty after the command is the model's choice, log 7.) -/
def Obligations.HeapOrderWritesPopOrder : Prop :=
  decodeWord 0x00000006 = .ok .heapOrder ∧
  ∀ s : State,
    (s.status.phase.toNat < 1 →
      exec .heapOrder s = .next
        { s with
          errInfo := BitVec.ofNat 32 s.status.phase.toNat, status := s.status.failed 0x06 .seq, sequencer := .idle }) ∧
    (1 ≤ s.status.phase.toNat →
      exec .heapOrder s = .next
        { s with
          out := s.out.put 0 ((popOrder s.symbols.length (seedHeap s.symbols)).map
            (fun e => (s.symbols.getD e.ref { freq := 0, sym := 0 }).sym))
          results := { s.results with outCount := s.hdr.nsym }
          work := Workspace.none
          errInfo := 0
          status := s.status.succeeded 0x06
          sequencer := .idle })

/-- 42_tree.md §1, §3 (the heap's contract): HEAP_ORDER writes every symbol of the table once, in the order of rising frequency. -/
def Obligations.HeapOrderSortsSymbols : Prop :=
  ∀ s : State, s.Inv → 1 ≤ s.status.phase.toNat →
    ∃ (order : List Nat) (t : State), exec .heapOrder s = .next t ∧
      order.Perm (List.range s.symbolCount) ∧
      order.Pairwise (fun i j =>
        (s.symbols.getD i { freq := 0, sym := 0 }).freq.toNat ≤ (s.symbols.getD j { freq := 0, sym := 0 }).freq.toNat) ∧
      t.out.bytes 0 s.symbolCount = order.map (fun i => (s.symbols.getD i { freq := 0, sym := 0 }).sym)

/-- R102: BUILD_TREE is the word 0x00000002. With PHASE < PARSED it completes with E_SEQ. With PHASE ≥ PARSED it seeds,
combines and lays out the tree of SYMTAB, and writes TREE_MEM, NODE_COUNT = 2N − 1, STATE_COUNT = N − 1, MAX_CODE_LEN and PHASE =
TREE; nothing else changes. All 23 entries of TREE_MEM are written, node by node, the unused ones as FF 00 00 00. (That the workspace
is empty after the command is the model's choice, log 7.) -/
def Obligations.BuildTreeWritesTree : Prop :=
  decodeWord 0x00000002 = .ok .buildTree ∧
  ∀ s : State,
    (s.status.phase.toNat < 1 →
      exec .buildTree s = .next
        { s with
          errInfo := BitVec.ofNat 32 s.status.phase.toNat, status := s.status.failed 0x02 .seq, sequencer := .idle }) ∧
    (1 ≤ s.status.phase.toNat →
      ∃ t, exec .buildTree s = .next t ∧
        t = { s with
              tree := t.tree
              counts :=
                { nodes := BitVec.ofNat 32 (2 * s.symbolCount - 1)
                  states := BitVec.ofNat 32 (s.symbolCount - 1)
                  maxCodeLen := BitVec.ofNat 32 (deepestLeaf (grownTree s.symbols).2 (rootOf (grownTree s.symbols).1)) }
              work := Workspace.none
              errInfo := 0
              status := { s.status.succeeded 0x02 with phase := .tree }
              sequencer := .idle } ∧
        ∀ i < 23, t.tree.bytes (4 * i) 4 =
          if i < (treeOf s.symbols).length then (nodeAt (treeOf s.symbols) i).toBytes else [0xFF, 0x00, 0x00, 0x00])

/-- R112: GEN_TABLES is the word 0x00000003. With PHASE < TREE it completes with E_SEQ. With PHASE ≥ TREE it writes, for
every state s < 11 and byte v, the 16-byte slot (s, v) at offset (s·256 + v)·16: the emitted symbols filled up with 00, count, next,
mask and five 00 bytes of SLOTFN(s, v) where s < STATE_COUNT, and 16 zero bytes for an unused state; PHASE becomes TABLES and
nothing else changes. -/
def Obligations.GenTablesWritesSlots : Prop :=
  decodeWord 0x00000003 = .ok .genTables ∧
  ∀ s : State,
    (s.status.phase.toNat < 2 →
      exec .genTables s = .next
        { s with
          errInfo := BitVec.ofNat 32 s.status.phase.toNat, status := s.status.failed 0x03 .seq, sequencer := .idle }) ∧
    (2 ≤ s.status.phase.toNat →
      ∃ t, exec .genTables s = .next t ∧
        t = { s with
              table := t.table
              errInfo := 0
              status := { s.status.succeeded 0x03 with phase := .tables }
              sequencer := .idle } ∧
        ∀ st < 11, ∀ v : Byte,
          let e := slotFn s.tree.nodes st v
          t.table.bytes ((st * 256 + v.toNat) * 16) 16 =
            if st < s.counts.states.toNat then
              e.syms ++ List.replicate (8 - e.syms.length) 0x00
                ++ [BitVec.ofNat 8 e.syms.length, BitVec.ofNat 8 e.next, e.mask, 0x00, 0x00, 0x00, 0x00, 0x00]
            else List.replicate 16 0x00)

/-- 44_decode.md §2, §3 (equivalence to single-channel decoding): with PHASE = TABLES, K in range and slots that pass
their check, DECODE K leaves what SEQDECODE gives, whatever K and CONV_LIMIT: on success its output, D, its bits and its final state;
on its E_LENGTH the same error, with 0 in the three result registers and OUT_MEM[0..D−1] unspecified (the memory `o` agrees with the
old one from D on). Only CH_CONV (`c`) depends on K and CONV_LIMIT beside CH_START, which holds the segment starts. (That the
workspace is empty after the command is the model's choice, log 7.) -/
def Obligations.DecodeAgreesWithSingleChannel : Prop :=
  ∀ (s : State) (k : Nat), s.status.phase = .tables → 1 ≤ k → k ≤ s.params.kMax → 0 < s.counts.states.toNat →
    SlotsValid s.table s.counts.states.toNat →
    (∀ fin m, seqDecode s = .ok (fin, m) →
      m.rev.length = s.decodedLen ∧
      ∃ c, exec (.decode k) s = .next
        { s with
          out := s.out.put 0 m.rev.reverse
          results := { outCount := s.hdr.decLen, bitsUsed := BitVec.ofNat 32 m.bits, finalState := BitVec.ofNat 32 fin }
          conv := { start := startRegs s.streamLen k, conv := c }
          work := Workspace.none
          errInfo := 0
          status := s.status.succeeded 0x04
          sequencer := .idle }) ∧
    (∀ e, seqDecode s = .error e →
      e.code = .length ∧
      ∃ c o n, (∀ a, s.decodedLen ≤ a → Memory.byte o a = s.out.byte a) ∧ exec (.decode k) s = .next
        { s with
          out := o
          draws := n
          results := { outCount := 0, bitsUsed := 0, finalState := 0 }
          conv := { start := startRegs s.streamLen k, conv := c }
          work := Workspace.none
          errInfo := e.info
          status := s.status.failed 0x04 .length
          sequencer := .idle })

/-- R118: SLOT(s, v) reads the 16-byte slot (s, v) of TABLE_MEM and checks it: a state or a next state that is not below STATE_COUNT, a
count above 8 or a mask with another number of bits than count raises E_CORRUPT with ERR_INFO (s << 8) | v. With PHASE = TABLES
and K in range, a check that fails in the speculative pass is DECODE's outcome (44_decode.md §3, order of the checks): 0 in the
three result registers, OUT_MEM unchanged from D on, CH_START, CH_CONV and everything else unchanged. (That the speculative pass
reads every byte, and so can fail, at D = 0, at K = 1 and after the byte where SEQDECODE stops too, is the model's choice, log 19.) -/
def Obligations.InvalidSlotRaisesCorrupt : Prop :=
  (∀ (table : Memory) (states st : Nat) (v : Byte),
    let a := (st * 256 + v.toNat) * 16
    let count := (table.byte (a + 8)).toNat
    let next := (table.byte (a + 9)).toNat
    let mask := table.byte (a + 10)
    readSlot table states st v =
      if states ≤ st ∨ 8 < count ∨ states ≤ next ∨ (setBits mask).length ≠ count then
        .error { code := .corrupt, info := BitVec.ofNat 32 (st * 256 + v.toNat) }
      else .ok { syms := table.bytes a count, next := next, mask := mask }) ∧
  (∀ (s : State) (k : Nat) (e : Ending), s.status.phase = .tables → 1 ≤ k → k ≤ s.params.kMax →
    speculate s.table s.counts.states.toNat (s.segments k) = .error e →
    e.code = .corrupt ∧
    ∃ o n, (∀ a, s.decodedLen ≤ a → Memory.byte o a = s.out.byte a) ∧ exec (.decode k) s = .next
      { s with
        out := o
        draws := n
        results := { outCount := 0, bitsUsed := 0, finalState := 0 }
        errInfo := e.info
        status := s.status.failed 0x04 .corrupt
        sequencer := .idle })

/-- 44_decode.md §4: with PHASE ≥ TREE, TREE_DECODE leaves what the bit-by-bit walk of TREE_MEM over the bitstream gives: on success
the symbols in OUT_MEM[0..D−1], OUT_COUNT = D, the bits used and the final state; on its error the error, with 0 in the three result
registers and OUT_MEM unchanged from D on. CH_START, CH_CONV, PHASE and everything else are unchanged. -/
def Obligations.TreeDecodeWritesWalk : Prop :=
  ∀ s : State, 2 ≤ s.status.phase.toNat →
    (∀ w fin, treeWalk s.tree.nodes s.counts.nodes.toNat s.decodedLen s.bitCount (streamBits s.stream) = .ok (w, fin) →
      w.rev.length = s.decodedLen ∧
      exec .treeDecode s = .next
        { s with
          out := s.out.put 0 w.rev.reverse
          results := { outCount := s.hdr.decLen, bitsUsed := BitVec.ofNat 32 w.p, finalState := BitVec.ofNat 32 fin }
          errInfo := 0
          status := s.status.succeeded 0x05
          sequencer := .idle }) ∧
    (∀ e, treeWalk s.tree.nodes s.counts.nodes.toNat s.decodedLen s.bitCount (streamBits s.stream) = .error e →
      ∃ o n, (∀ a, s.decodedLen ≤ a → Memory.byte o a = s.out.byte a) ∧ exec .treeDecode s = .next
        { s with
          out := o
          draws := n
          results := { outCount := 0, bitsUsed := 0, finalState := 0 }
          errInfo := e.info
          status := s.status.failed 0x05 e.code
          sequencer := .idle })

/-- R137: DECODE_PACKET K is a word that matches 0x00000007 under mask 0xFFFFF0FF, with K from bits [11:8]. With K out of range it
completes with E_BADARG before any step runs. Else it runs PARSE, BUILD_TREE, GEN_TABLES and DECODE K on the state the previous step
left, as one command, in any phase: where the packet passes PARSE the first three succeed and DECODE_PACKET's next state is DECODE's
but for LAST_OP = 0x07; where PARSE fails, it is PARSE's but for LAST_OP. -/
def Obligations.DecodePacketRunsPipeline : Prop :=
  (∀ w : Word, w &&& 0xFFFFF0FF = 0x00000007 → decodeWord w = .ok (.decodePacket ((w >>> 8) &&& 0xF).toNat)) ∧
  ∀ (s : State) (k : Nat),
    ((k = 0 ∨ s.params.kMax < k) →
      exec (.decodePacket k) s = .next
        { s with errInfo := BitVec.ofNat 32 k, status := s.status.failed 0x07 .badArg, sequencer := .idle }) ∧
    (1 ≤ k → k ≤ s.params.kMax →
      (∀ h, readHeader s = .ok h →
        ∃ s₁ s₂ s₃ s₄, exec .parse s = .next s₁ ∧ s₁.status.errCode = .ok ∧ exec .buildTree s₁ = .next s₂ ∧
          s₂.status.errCode = .ok ∧ exec .genTables s₂ = .next s₃ ∧ s₃.status.errCode = .ok ∧ exec (.decode k) s₃ = .next s₄ ∧
          exec (.decodePacket k) s = .next { s₄ with status := { s₄.status with lastOp := 0x07 } }) ∧
      (∀ e, readHeader s = .error e →
        ∃ s₁, exec .parse s = .next s₁ ∧ s₁.status.errCode ≠ .ok ∧
          exec (.decodePacket k) s = .next { s₁ with status := { s₁.status with lastOp := 0x07 } }))

/-- 45_control.md (DECODE_PACKET), 95_test_vectors.md P1: DECODE_PACKET K completes with success, PHASE = TABLES, OUT_COUNT = D and
the decoded symbols in OUT_MEM, when the packet passes PARSE and the tree walk of its own tree over its bitstream finds D symbols in
B bits. -/
def Obligations.DecodePacketDecodes : Prop :=
  ∀ (s : State) (k : Nat) (h : PacketHeader) (w : TreeWalk) (fin : Nat), 1 ≤ k → k ≤ s.params.kMax →
    readHeader s = .ok h →
    treeWalk (treeEntries (treeOf ((List.range h.nsym).map s.packetEntry))) (2 * h.nsym - 1) h.decLen h.bits
      (streamBits (s.pkt.bytes (24 + 8 * h.nsym) ((h.bits + 7) / 8))) = .ok (w, fin) →
    ∃ t, exec (.decodePacket k) s = .next t ∧
      t.status = { s.status.succeeded 0x07 with phase := .tables } ∧ t.errInfo = 0 ∧ t.sequencer = .idle ∧
      t.hdr = h.registers ∧
      t.results = { outCount := BitVec.ofNat 32 h.decLen, bitsUsed := BitVec.ofNat 32 w.p, finalState := BitVec.ofNat 32 fin } ∧
      t.out.bytes 0 h.decLen = w.rev.reverse ∧ (∀ a, h.decLen ≤ a → t.out.byte a = s.out.byte a) ∧
      t.pkt = s.pkt ∧ t.pktLen = s.pktLen ∧ t.convLimit = s.convLimit ∧ t.irqEn = s.irqEn

/-! ## Errors -/

/-- R71: K is bits [11:8] of the word, zero-extended. DECODE and DECODE_PACKET with K = 0 or K > K_MAX complete with E_BADARG and
ERR_INFO = K, whatever the phase, and change nothing else; with 1 ≤ K ≤ K_MAX neither ends with E_BADARG. -/
def Obligations.CountOutOfRangeIsBadArg : Prop :=
  (∀ (w : Word) (k : Nat), (decodeWord w = .ok (.decode k) ∨ decodeWord w = .ok (.decodePacket k)) →
    k = ((w >>> 8) &&& 0xF).toNat) ∧
  ∀ (s : State) (k : Nat),
    ((k = 0 ∨ s.params.kMax < k) →
      exec (.decode k) s = .next
        { s with errInfo := BitVec.ofNat 32 k, status := s.status.failed 0x04 .badArg, sequencer := .idle } ∧
      exec (.decodePacket k) s = .next
        { s with errInfo := BitVec.ofNat 32 k, status := s.status.failed 0x07 .badArg, sequencer := .idle }) ∧
    (1 ≤ k → k ≤ s.params.kMax →
      ∀ t, (exec (.decode k) s = .next t ∨ exec (.decodePacket k) s = .next t) → t.status.errCode ≠ .badArg)

/-- R144: BUILD_TREE and HEAP_ORDER require PHASE ≥ PARSED, GEN_TABLES and TREE_DECODE PHASE ≥ TREE, DECODE (with K in range)
PHASE = TABLES, the other commands nothing. A command whose requirement is not met completes with E_SEQ and ERR_INFO = PHASE and
changes nothing else; one whose requirement is met never ends with E_SEQ. -/
def Obligations.PhaseRequirements : Prop :=
  ∀ (s : State) (i : Instr), (∀ k, i = .decode k → 1 ≤ k ∧ k ≤ s.params.kMax) →
    let required : Nat :=
      match i with
      | .nop | .parse | .decodePacket _ | .clear => 0
      | .buildTree | .heapOrder => 1
      | .genTables | .treeDecode => 2
      | .decode _ => 3
    (s.status.phase.toNat < required →
      exec i s = .next
        { s with
          errInfo := BitVec.ofNat 32 s.status.phase.toNat, status := s.status.failed i.opcode .seq, sequencer := .idle }) ∧
    (required ≤ s.status.phase.toNat → ∀ t, exec i s = .next t → t.status.errCode ≠ .seq)

/-- R145: whatever the command, an ending with E_BADCMD, E_BADARG or E_SEQ changes STATUS and ERR_INFO at completion and nothing
else. -/
def Obligations.RefusedCommandChangesNothing : Prop :=
  (∀ (i : Instr) (s t : State), exec i s = .next t → (t.status.errCode = .badArg ∨ t.status.errCode = .seq) →
    t = { s with
          errInfo := t.errInfo
          status := s.status.failed i.opcode t.status.errCode
          sequencer := .idle }) ∧
  (∀ (c : Word) (s : State) (e : DecodeError), s.events = [] → s.sequencer = .running c → decodeWord c = .error e →
    step s = .next { s with errInfo := c, status := s.status.failed (c.setWidth 8) .badCmd, sequencer := .idle })

/-- 60_exceptions.md §3: a DECODE or TREE_DECODE, on its own or as the last step of DECODE_PACKET, that completes with E_LENGTH or
E_CORRUPT leaves 0 in OUT_COUNT, BITS_USED and FINAL_STATE, leaves OUT_MEM from D on unchanged, and (on its own) PHASE, TREE_MEM and
TABLE_MEM; after DECODE_PACKET PHASE is TABLES. TREE_DECODE leaves CH_START and CH_CONV unchanged, and so does E_CORRUPT. -/
def Obligations.FailedDecodeEffects : Prop :=
  (∀ (i : Instr) (s t : State), (i = .treeDecode ∨ ∃ k, i = .decode k) → exec i s = .next t →
    (t.status.errCode = .length ∨ t.status.errCode = .corrupt) →
    t.results = { outCount := 0, bitsUsed := 0, finalState := 0 } ∧ (∀ a, s.decodedLen ≤ a → t.out.byte a = s.out.byte a) ∧
    t.status.phase = s.status.phase ∧ t.tree = s.tree ∧ t.table = s.table ∧
    (i = .treeDecode ∨ t.status.errCode = .corrupt → t.conv = s.conv)) ∧
  (∀ (k : Nat) (s t : State), exec (.decodePacket k) s = .next t →
    (t.status.errCode = .length ∨ t.status.errCode = .corrupt) →
    t.results = { outCount := 0, bitsUsed := 0, finalState := 0 } ∧ (∀ a, t.decodedLen ≤ a → t.out.byte a = s.out.byte a) ∧
    t.status.phase = .tables)

/-! ## Frames -/

/-- 10_state.md §6: each command writes only the state of its row. No command writes CTRL, PKT_LEN, CONV_LIMIT, the sticky STATUS
bits, the parameters or PKT_MEM (nor the pins and the host port), and every other piece of state is left alone by the commands whose
rows do not list it. This statement leaves two things to others: which bytes of OUT_MEM the commands with an output write
(OutputPastTheEndUnchanged: those below D, or below N), and what DECODE_PACKET writes beyond its first clause (DecodePacketRunsPipeline:
what its steps write, one after the other). -/
def Obligations.CommandsWriteOnlyTheirRows : Prop :=
  ∀ (i : Instr) (s t : State), exec i s = .next t →
    (t.params = s.params ∧ t.irqEn = s.irqEn ∧ t.pktLen = s.pktLen ∧ t.convLimit = s.convLimit ∧ t.pkt = s.pkt ∧
      t.rst = s.rst ∧ t.events = s.events ∧ t.resp = s.resp ∧ t.status.cmdDrop = s.status.cmdDrop ∧
      t.status.accDrop = s.status.accDrop ∧ t.status.busErr = s.status.busErr) ∧
    ((i ≠ .parse ∧ i ≠ .clear ∧ ∀ k, i ≠ .decodePacket k) → t.hdr = s.hdr ∧ t.symtab = s.symtab) ∧
    ((i ≠ .parse ∧ i ≠ .clear ∧ i ≠ .buildTree ∧ ∀ k, i ≠ .decodePacket k) → t.counts = s.counts) ∧
    ((i ≠ .parse ∧ i ≠ .clear ∧ i ≠ .buildTree ∧ i ≠ .genTables ∧ ∀ k, i ≠ .decodePacket k) →
      t.status.phase = s.status.phase) ∧
    ((i ≠ .buildTree ∧ ∀ k, i ≠ .decodePacket k) → t.tree = s.tree) ∧
    ((i ≠ .genTables ∧ ∀ k, i ≠ .decodePacket k) → t.table = s.table) ∧
    ((i ≠ .treeDecode ∧ i ≠ .heapOrder ∧ (∀ k, i ≠ .decode k) ∧ ∀ k, i ≠ .decodePacket k) → t.out = s.out) ∧
    ((i ≠ .clear ∧ i ≠ .treeDecode ∧ i ≠ .heapOrder ∧ (∀ k, i ≠ .decode k) ∧ ∀ k, i ≠ .decodePacket k) →
      t.results = s.results) ∧
    (i = .heapOrder → t.results.bitsUsed = s.results.bitsUsed ∧ t.results.finalState = s.results.finalState) ∧
    ((i ≠ .clear ∧ (∀ k, i ≠ .decode k) ∧ ∀ k, i ≠ .decodePacket k) → t.conv = s.conv)

/-- R68: OUT_MEM bytes at offsets ≥ D after a decode command, and at offsets ≥ N after HEAP_ORDER, are unchanged by the command, whether
it succeeds or fails. (For DECODE_PACKET D is the one its PARSE step latched.) -/
def Obligations.OutputPastTheEndUnchanged : Prop :=
  ∀ (s t : State) (a : Nat),
    ((∃ k, exec (.decode k) s = .next t) ∨ exec .treeDecode s = .next t → s.decodedLen ≤ a → t.out.byte a = s.out.byte a) ∧
    (exec .heapOrder s = .next t → s.symbolCount ≤ a → t.out.byte a = s.out.byte a) ∧
    ((∃ k, exec (.decodePacket k) s = .next t) → t.decodedLen ≤ a → t.out.byte a = s.out.byte a)

/-! ## The heap, the tree and the tables -/

/-- 42_tree.md §1: heap_push adds exactly its entry, and a heap in order stays in order. -/
def Obligations.HeapPushKeepsOrder : Prop :=
  ∀ (h : List HeapEntry) (e : HeapEntry), (heapPush h e).Perm (e :: h) ∧ (HeapOrdered h → HeapOrdered (heapPush h e))

/-- 42_tree.md §1: heap_pop on a heap that is not empty removes exactly the entry it returns; from a heap in order it returns a
smallest entry and leaves a heap in order. -/
def Obligations.HeapPopRemovesSmallest : Prop :=
  ∀ h : List HeapEntry, h ≠ [] →
    h.Perm ((heapPop h).1 :: (heapPop h).2) ∧
    (HeapOrdered h → HeapOrdered (heapPop h).2 ∧ ∀ e ∈ h, (heapPop h).1.f.toNat ≤ e.f.toNat)

/-- 00_scope.md §4, 42_tree.md §2: the 36-bit frequency sums never wrap: after combining, one entry is left and its frequency is the
exact sum of the table's frequencies. -/
def Obligations.FrequencySumsAreExact : Prop :=
  ∀ symbols : List SymEntry, 1 ≤ symbols.length → symbols.length ≤ 12 →
    ∃ e, (grownTree symbols).1 = [e] ∧ e.f.toNat = (symbols.map (fun x => x.freq.toNat)).sum

/-- 42_tree.md §2 (combining, the layout), §4 (properties of the tree). One combining step on a heap in order takes its two smallest
entries, the first popped as the left child of a new internal node and the second as the right child, pushes their sum, and leaves a
heap in order. The tree of a table of 2 to 12 symbols is a full binary tree with exactly one leaf for every entry of the table; its
pool starts with the leaves in table order, its node 0 is the root, and each TREE_MEM node is that of a pool node, with the pool node's
left child as its left child and the right one as its right child. -/
def Obligations.BuiltTreeIsFull : Prop :=
  (∀ (h : List HeapEntry) (pool : List PoolNode), 2 ≤ h.length → HeapOrdered h →
    ∃ (a b : HeapEntry) (rest : List HeapEntry), h.Perm (a :: b :: rest) ∧
      a = (heapPop h).1 ∧ b = (heapPop (heapPop h).2).1 ∧ a.f.toNat ≤ b.f.toNat ∧ (∀ e ∈ rest, b.f.toNat ≤ e.f.toNat) ∧
      (combineOnce h pool).2 = pool ++ [.internal a.ref b.ref] ∧
      (combineOnce h pool).1.Perm ({ f := a.f + b.f, ref := pool.length } :: rest) ∧ HeapOrdered (combineOnce h pool).1) ∧
  ∀ symbols : List SymEntry, 2 ≤ symbols.length → symbols.length ≤ 12 →
    FullTree (treeOf symbols) symbols.length ∧
    (((treeOf symbols).filter TreeNode.isLeaf).map TreeNode.value).Perm (symbols.map SymEntry.sym) ∧
    let pool := (grownTree symbols).2
    let root := rootOf (grownTree symbols).1
    let order := breadthFirst pool pool.length [root]
    pool.take symbols.length = symbols.map (fun e => .leaf e.sym) ∧
    order.Perm (List.range (2 * symbols.length - 1)) ∧ order.head? = some root ∧
    ∀ x < 2 * symbols.length - 1,
      let node := nodeAt (treeOf symbols) (order.idxOf x)
      match pool[x]? with
      | some (.leaf sym) => node.isLeaf = true ∧ node.value = sym
      | some (.internal l r) => node.isInternal = true ∧ order[node.left.toNat]? = some l ∧ order[node.right.toNat]? = some r
      | none => False

/-- 42_tree.md §2 (the breadth-first layout): the internal node with state index s has the children 2s + 1 and 2s + 2. -/
def Obligations.BreadthFirstChildren : Prop :=
  ∀ symbols : List SymEntry, 2 ≤ symbols.length → symbols.length ≤ 12 →
    ∀ x ∈ treeOf symbols, x.isInternal = true →
      x.left.toNat = 2 * x.value.toNat + 1 ∧ x.right.toNat = 2 * x.value.toNat + 2

/-- 42_tree.md §2, §4 (code words): a tree of 2 to 12 symbols has one code word for every symbol of the table (the
code words' symbols are the table's, in some order), no code word is a prefix of another, each has between 1 and N − 1 bits, and the
longest has MAX_CODE_LEN bits. -/
def Obligations.CodeWordsArePrefixFree : Prop :=
  ∀ symbols : List SymEntry, 2 ≤ symbols.length → symbols.length ≤ 12 →
    let codes := codeWords (treeOf symbols)
    codes.length = symbols.length ∧
    (codes.map Prod.fst).Perm (symbols.map SymEntry.sym) ∧
    codes.Pairwise (fun a b => ¬ a.2 <+: b.2 ∧ ¬ b.2 <+: a.2) ∧
    (∀ c ∈ codes, 1 ≤ c.2.length ∧ c.2.length ≤ symbols.length - 1) ∧
    (codes.map (fun c => c.2.length)).foldl max 0 = deepestLeaf (grownTree symbols).2 (rootOf (grownTree symbols).1)

/-- 43_tables.md (count, mask and next-state properties of a slot): in the tables of a tree of 2 to 12 symbols every slot has as many
symbols as its mask has bits, at most 8, its next state is a state in use, and next = 0 exactly when mask bit 0 is 1. -/
def Obligations.SlotCountMaskNext : Prop :=
  ∀ symbols : List SymEntry, 2 ≤ symbols.length → symbols.length ≤ 12 →
    ∀ st < symbols.length - 1, ∀ v : Byte,
      let e := slotFn (treeEntries (treeOf symbols)) st v
      e.syms.length = (setBits e.mask).length ∧ e.syms.length ≤ 8 ∧ e.next < symbols.length - 1 ∧
      (e.next = 0 ↔ e.mask.getLsbD 0 = true)

/-- 43_tables.md (freedom of method): for two internal nodes whose children are all leaves the slots of the same byte agree in count,
next and mask and in every symbol but the first; the first is the leaf that bit 7 of the byte selects. -/
def Obligations.BothLeavesTablesCopy : Prop :=
  ∀ (nodes : List TreeNode) (x y : Nat) (v : Byte),
    (∀ bit, (nodeAt nodes (childOf nodes (nodeOfState nodes x) bit)).isLeaf = true) →
    (∀ bit, (nodeAt nodes (childOf nodes (nodeOfState nodes y) bit)).isLeaf = true) →
    slotFn nodes x v =
      { slotFn nodes y v with
        syms := (nodeAt nodes (childOf nodes (nodeOfState nodes x) (v.getLsbD 7))).value :: (slotFn nodes y v).syms.tail }

/-! ## Decoding -/

/-- R121: segment i starts at floor(i·L/K); the K segments are consecutive, cover bytes 0 to L − 1 and differ in length by at most
1; after a DECODE K that succeeds or fails with E_LENGTH, CH_START[i] is s_i for i < K and L for i ≥ K. -/
def Obligations.SegmentsCoverTheStream : Prop :=
  (∀ l k, 0 < k → (∀ i, segStart l k i = i * l / k) ∧ segStart l k 0 = 0 ∧ segStart l k k = l ∧
    (∀ i < k, segStart l k i ≤ segStart l k (i + 1)) ∧
    (∀ i < k, ∀ j < k, segStart l k (i + 1) - segStart l k i ≤ segStart l k (j + 1) - segStart l k j + 1)) ∧
  (∀ (s t : State) (k : Nat), exec (.decode k) s = .next t → (t.status.errCode = .ok ∨ t.status.errCode = .length) →
    ∀ i : Fin 15, t.conv.start[i.val] =
      BitVec.ofNat 32 (if i.val < k then i.val * s.streamLen / k else s.streamLen)) ∧
  (∀ (s : State) (k : Nat), 0 < k → (s.segments k).flatten = s.stream)

/-- 10_state.md §3 (CH_CONV), 44_decode.md §3: after a DECODE K that succeeds or fails with E_LENGTH, CH_CONV[i] is SKIPPED exactly
where segment i was not entered: i ≥ K, or the single-channel loop outputs the D-th symbol before it. So CH_CONV[0] is 0 where D > 0,
and every entry is SKIPPED where D = 0. The value of an entered segment is 0 exactly where the true state at its start is 0. A count c
is at most the segment's length and, where CONV_LIMIT ≠ 0, at most CONV_LIMIT; c bytes into the segment the true state and the state
speculated from 0 agree, and after no smaller positive number of bytes. NONE means that they agree after no number of bytes that the
merge compares (up to CONV_LIMIT, while the D-th symbol is pending; the claim is made before the bitstream's last byte). -/
def Obligations.ConvergenceValues : Prop :=
  ∀ (s t : State) (k : Nat), exec (.decode k) s = .next t → (t.status.errCode = .ok ∨ t.status.errCode = .length) →
    (0 < s.decodedLen → t.conv.conv[0] = 0) ∧ (s.decodedLen = 0 → ∀ i : Fin 15, t.conv.conv[i.val] = 0xFFFFFFFE) ∧
    ∀ i : Fin 15,
      let v := t.conv.conv[i.val]
      let first := segStart s.streamLen k i.val
      let size := segStart s.streamLen k (i.val + 1) - first
      let agree (c : Nat) : Prop := s.trueState (first + c) = s.speculatedState first c
      (v ≠ 0xFFFFFFFE ↔ i.val < k ∧ s.outputPending first) ∧
      (v ≠ 0xFFFFFFFE → (v = 0 ↔ s.trueState first = some 0)) ∧
      (v ≠ 0xFFFFFFFE → v ≠ 0xFFFFFFFF →
        v.toNat ≤ size ∧ (s.convLimit ≠ 0 → v.toNat ≤ s.convLimit.toNat) ∧ agree v.toNat ∧
        ∀ c, 0 < c → c < v.toNat → ¬ agree c) ∧
      (v = 0xFFFFFFFF →
        ∀ c, 0 < c → c ≤ size → first + c < s.streamLen → (s.convLimit = 0 ∨ c ≤ s.convLimit.toNat) →
          s.outputPending (first + c) → ¬ agree c)

/-- 44_decode.md §2, 10_state.md §3: after a DECODE or TREE_DECODE that succeeds, OUT_COUNT is D and BITS_USED is at most B, and 0 when
D = 0. -/
def Obligations.BitsUsedWithinStream : Prop :=
  ∀ (i : Instr) (s t : State), (i = .treeDecode ∨ ∃ k, i = .decode k) → exec i s = .next t → t.status.errCode = .ok →
    t.results.outCount = s.hdr.decLen ∧ t.results.bitsUsed.toNat ≤ s.bitCount ∧
    (s.decodedLen = 0 → t.results.bitsUsed = 0)

/-- 44_decode.md §4 (cross-check): in every state that keeps the invariant, with PHASE = TABLES, TREE_DECODE and DECODE K leave the same
OUT_COUNT, BITS_USED, FINAL_STATE, ERR_CODE and ERR_INFO, and on success the same OUT_MEM[0..D−1]. -/
def Obligations.TreeDecodeAgreesWithDecode : Prop :=
  ∀ (s t₁ t₂ : State) (k : Nat), s.Inv → s.status.phase = .tables → 1 ≤ k → k ≤ s.params.kMax →
    exec (.decode k) s = .next t₁ → exec .treeDecode s = .next t₂ →
    t₁.results = t₂.results ∧ t₁.status.errCode = t₂.status.errCode ∧ t₁.errInfo = t₂.errInfo ∧
    (t₁.status.errCode = .ok → t₁.out.bytes 0 s.decodedLen = t₂.out.bytes 0 s.decodedLen)

/-- 30_encoding.md §2, 42_tree.md §2, 44_decode.md §4: decoding inverts encoding. Where the first bits of the bitstream are the code
words of D symbols one after the other, within B bits, TREE_DECODE succeeds, writes those symbols and reports their total length as
BITS_USED. -/
def Obligations.EncodedMessageDecodes : Prop :=
  ∀ (s : State) (msg : List (Byte × List Bool)), s.Inv → 2 ≤ s.status.phase.toNat →
    (∀ p ∈ msg, p ∈ codeWords (treeOf s.symbols)) → msg.length = s.decodedLen →
    (msg.flatMap Prod.snd) <+: (streamBits s.stream).take s.bitCount →
    ∃ t, exec .treeDecode s = .next t ∧ t.status.errCode = .ok ∧
      t.out.bytes 0 s.decodedLen = msg.map Prod.fst ∧
      t.results.bitsUsed = BitVec.ofNat 32 (msg.flatMap Prod.snd).length

/-- 44_decode.md §5 (idempotence): issuing a DECODE or TREE_DECODE that succeeded again changes nothing; one that failed with
E_LENGTH or E_CORRUPT gives the same registers again. -/
def Obligations.DecodeIsIdempotent : Prop :=
  ∀ (i : Instr) (s t t' : State), (i = .treeDecode ∨ ∃ k, i = .decode k) → exec i s = .next t → exec i t = .next t' →
    (t.status.errCode = .ok → t' = t) ∧
    (t'.status = t.status ∧ t'.errInfo = t.errInfo ∧ t'.results = t.results ∧ t'.conv = t.conv)

/-- 60_exceptions.md §4 (no retry): re-issuing a command that failed fails again with the same code and ERR_INFO. -/
def Obligations.RetryFailsAgain : Prop :=
  ∀ (i : Instr) (s t t' : State), exec i s = .next t → t.status.errCode ≠ .ok → exec i t = .next t' →
    t'.status.errCode = t.status.errCode ∧ t'.errInfo = t.errInfo

/-- 30_encoding.md §2, 20_memory.md §4: pad bits do not matter. Two states that keep the invariant, have the same header, symbol
table and result registers, and whose bitstreams agree in the first B bits, give the same OUT_COUNT, BITS_USED and error outcome,
and on success the same OUT_MEM[0..D−1], under TREE_DECODE and, with PHASE = TABLES, under DECODE K. -/
def Obligations.PadBitsDoNotMatter : Prop :=
  ∀ (i : Instr) (s s' t t' : State), s.Inv → s'.Inv → s.params = s'.params → s.status.phase = s'.status.phase →
    s.hdr = s'.hdr → s.symbols = s'.symbols → s.results = s'.results →
    (streamBits s.stream).take s.bitCount = (streamBits s'.stream).take s.bitCount →
    (i = .treeDecode ∨ ∃ k, i = .decode k) → exec i s = .next t → exec i s' = .next t' →
    t.results.outCount = t'.results.outCount ∧ t.results.bitsUsed = t'.results.bitsUsed ∧
    t.status.errCode = t'.status.errCode ∧ t.errInfo = t'.errInfo ∧
    (t.status.errCode = .ok → t.out.bytes 0 s.decodedLen = t'.out.bytes 0 s.decodedLen)

/-! ## The invariant -/

/-- The state right after reset of the reference instance keeps the invariant (10_state.md §5). That the instance is the reference one
is log 1's choice, that the workspace is empty log 7's; log 6 names the reset value of SYMTAB, on which nothing here rests. -/
def Obligations.ResetKeepsInvariant : Prop := State.reset.Inv

/-- Every step keeps the invariant: memories stay canonical and within their sizes, PKT_LEN, D, N and OUT_COUNT within their bounds,
nothing runs under RST, and what PHASE promises holds (10_state.md §3 PHASE, 20_memory.md §3, 70_reset_and_hazards.md §1). (That the
workspace is empty outside a command is the model's choice, log 7.) -/
def Obligations.StepKeepsInvariant : Prop :=
  ∀ s t : State, s.Inv → step s = .next t → t.Inv

/-- 43_tables.md (purity), 60_exceptions.md §3: in a state that keeps the invariant with PHASE = TABLES every slot that DECODE can
read is the SLOTFN of the symbol table's tree, so the check of 44_decode.md never fails. -/
def Obligations.TablesHoldSlotFunction : Prop :=
  ∀ s : State, s.Inv → s.status.phase = .tables →
    ∀ st < s.counts.states.toNat, ∀ v : Byte,
      readSlot s.table s.counts.states.toNat st v = .ok (slotFn (treeEntries (treeOf s.symbols)) st v)

/-- 60_exceptions.md §3: E_CORRUPT is unreachable: from a state that keeps the invariant no command ends with it. -/
def Obligations.CorruptIsUnreachable : Prop :=
  ∀ (i : Instr) (s t : State), s.Inv → exec i s = .next t → t.status.errCode ≠ .corrupt

/-! ## The host port, the interrupt and reset -/

/-- 10_state.md §3 (the table of the register window): a 32-bit read at each offset returns the register that the table places there,
whether or not a command runs, and changes nothing but the host port's answer: ID 0x4D534648, VERSION 7, the instance's constants,
CTRL with IRQ_EN in bit 0, CMD 0, and so on (the fields of STATUS: StatusAndConfigFields). Every other word offset reads 0. A 32-bit
write anywhere but at CTRL, STATUS, CMD, PKT_LEN and CONV_LIMIT changes nothing. `Reg.offset` and `regAt` say the same places. -/
def Obligations.RegisterWindowReads : Prop :=
  (∀ r : Reg, r.offset < 0x1000 ∧ r.offset % 4 = 0 ∧ regAt r.offset = some r) ∧
  (∀ off r, regAt off = some r → r.offset = off) ∧
  ∀ s : State, s.rst = false →
    let reads (off : Nat) (d : Word) : Prop :=
      hostRead 4 (BitVec.ofNat 18 off) s = { s with resp := { err := false, data := d } }
    (reads 0x000 0x4D534648 ∧ reads 0x004 0x00000007 ∧
      (s.params.Ok → reads 0x008 (0x170C0800 ||| BitVec.ofNat 32 s.params.kMax)) ∧
      reads 0x00C (BitVec.ofNat 32 s.params.pktBytes) ∧ reads 0x010 (BitVec.ofNat 32 s.params.outBytes)) ∧
    (reads 0x020 (if s.irqEn then 1 else 0) ∧ reads 0x024 (s.regValue .status) ∧ reads 0x028 0 ∧ reads 0x02C s.pktLen ∧
      reads 0x030 s.convLimit ∧ reads 0x034 s.errInfo) ∧
    (reads 0x040 s.hdr.totalLo ∧ reads 0x044 s.hdr.totalHi ∧ reads 0x048 s.hdr.nsym ∧ reads 0x04C s.hdr.bits ∧
      reads 0x050 s.hdr.encLen ∧ reads 0x054 s.hdr.decLen) ∧
    (reads 0x058 s.counts.nodes ∧ reads 0x05C s.counts.states ∧ reads 0x060 s.counts.maxCodeLen) ∧
    (reads 0x064 s.results.outCount ∧ reads 0x068 s.results.bitsUsed ∧ reads 0x06C s.results.finalState) ∧
    (∀ i : Fin 15, reads (0x080 + 4 * i.val) s.conv.start[i.val] ∧ reads (0x0C0 + 4 * i.val) s.conv.conv[i.val]) ∧
    (∀ off < 0x1000, off % 4 = 0 →
      (off ∈ [0x014, 0x018, 0x01C, 0x038, 0x03C, 0x070, 0x074, 0x078, 0x07C, 0x0BC] ∨ 0x0FC ≤ off → reads off 0) ∧
      (off ∉ [0x020, 0x024, 0x028, 0x02C, 0x030] →
        ∀ v, ∃ d, hostWrite 4 (BitVec.ofNat 18 off) v s = { s with resp := { err := false, data := d } }))

/-- 10_state.md §3: the fields of STATUS and of CONFIG stand at their bits; the reserved bits read 0. -/
def Obligations.StatusAndConfigFields : Prop :=
  (∀ s : State, let w := s.regValue .status
    w.getLsbD 0 = s.busy ∧ w.getLsbD 1 = s.status.done ∧ w.getLsbD 2 = s.status.err ∧ w.getLsbD 3 = s.status.cmdDrop ∧
    w.getLsbD 4 = s.status.accDrop ∧ w.getLsbD 5 = s.status.busErr ∧ w.extractLsb' 6 2 = 0 ∧
    (w.extractLsb' 8 4).toNat = s.status.phase.toNat ∧ w.extractLsb' 12 4 = 0 ∧
    (w.extractLsb' 16 8).toNat = s.status.errCode.toNat ∧ w.extractLsb' 24 8 = s.status.lastOp) ∧
  (∀ s : State, s.params.Ok → let w := s.regValue .config
    (w.extractLsb' 0 4).toNat = s.params.kMax ∧ w.extractLsb' 4 4 = 0 ∧ w.extractLsb' 8 4 = 8 ∧ w.extractLsb' 12 4 = 0 ∧
    w.extractLsb' 16 8 = 12 ∧ w.extractLsb' 24 8 = 23)

/-- R19: a host write of v to STATUS clears each of DONE, ERR, CMD_DROP, ACC_DROP and BUS_ERR whose bit in v is 1 and changes no other
field, whether or not a command runs; a read of STATUS has no side effect. -/
def Obligations.StatusWriteClears : Prop :=
  ∀ (s : State) (v : Word), s.rst = false →
    (∃ d, hostWrite 4 0x00024 v s =
      { s with
        status :=
          { s.status with
            done := s.status.done && !v.getLsbD 1
            err := s.status.err && !v.getLsbD 2
            cmdDrop := s.status.cmdDrop && !v.getLsbD 3
            accDrop := s.status.accDrop && !v.getLsbD 4
            busErr := s.status.busErr && !v.getLsbD 5 }
        resp := { err := false, data := d } }) ∧
    hostRead 4 0x00024 s = { s with resp := { err := false, data := s.regValue .status } }

/-- R57: an idle host write of v to PKT_LEN stores min(v, PKT_BYTES) and sets PHASE to EMPTY; one to PKT_MEM that gets no error response
stores the low n bytes of v, little-endian, and sets PHASE to EMPTY, even where the written value equals the old one; one to
CONV_LIMIT stores v and leaves PHASE; nothing else changes. -/
def Obligations.PacketWritesEmptyThePhase : Prop :=
  ∀ (s : State) (v : Word), s.rst = false → s.sequencer = .idle →
    (∃ d, hostWrite 4 0x0002C v s =
      { s with
        pktLen := BitVec.ofNat 32 (min v.toNat s.params.pktBytes)
        status := { s.status with phase := .empty }
        resp := { err := false, data := d } }) ∧
    (∃ d, hostWrite 4 0x00030 v s = { s with convLimit := v, resp := { err := false, data := d } }) ∧
    ∀ (n off : Nat), (n = 1 ∨ n = 2 ∨ n = 4) → off % n = 0 → off + n ≤ s.params.pktBytes → off < 0x10000 →
      ∃ d, hostWrite n (BitVec.ofNat 18 (0x20000 + off)) v s =
        { s with
          pkt := s.pkt.put off (toBytes n v.toNat)
          status := { s.status with phase := .empty }
          resp := { err := false, data := d } }

/-- R51, R52: a host transaction gets an error response exactly when its width or alignment is wrong for its window, it writes to
TREE_MEM or TABLE_MEM, it passes the end of PKT_MEM or OUT_MEM, or its address is unmapped; and then it changes nothing but
BUS_ERR ← 1, and its read data is 0. -/
def Obligations.ErrorResponses : Prop :=
  ∀ (s : State) (n : Nat) (a : HostAddr) (v : Word), s.rst = false →
    let good (write : Bool) : Prop :=
      (a.toNat < 0x01000 ∧ n = 4 ∧ a.toNat % 4 = 0) ∨
      ((n = 1 ∨ n = 2 ∨ n = 4) ∧ a.toNat % n = 0 ∧
        ((0x01000 ≤ a.toNat ∧ a.toNat < 0x02000 ∧ write = false) ∨
          (0x10000 ≤ a.toNat ∧ a.toNat < 0x20000 ∧ write = false) ∨
          (0x20000 ≤ a.toNat ∧ a.toNat < 0x30000 ∧ a.toNat + n ≤ 0x20000 + s.params.pktBytes) ∨
          (0x30000 ≤ a.toNat ∧ a.toNat + n ≤ 0x30000 + s.params.outBytes)))
    let refused (d : Word) : State := { s with status := { s.status with busErr := true }, resp := { err := true, data := d } }
    (¬ good false → hostRead n a s = refused 0) ∧ (good false → (hostRead n a s).resp.err = false) ∧
    (¬ good true → ∃ d, hostWrite n a v s = refused d) ∧ (good true → (hostWrite n a v s).resp.err = false)

/-- 20_memory.md §3: while BUSY = 1 a host read of a memory window that would get no error response returns 0 and sets ACC_DROP, a write
to one is ignored and sets ACC_DROP, and a write to CMD, PKT_LEN or CONV_LIMIT is ignored and sets CMD_DROP; nothing else changes. -/
def Obligations.BusyAccessesAreDropped : Prop :=
  ∀ (s : State) (n : Nat) (a : HostAddr) (v : Word), s.rst = false → s.busy = true →
    let dropped (d : Word) : State := { s with status := { s.status with accDrop := true }, resp := { err := false, data := d } }
    (0x01000 ≤ a.toNat → (hostRead n a s).resp.err = false → hostRead n a s = dropped 0) ∧
    (0x01000 ≤ a.toNat → (hostWrite n a v s).resp.err = false → ∃ d, hostWrite n a v s = dropped d) ∧
    (a = 0x00028 ∨ a = 0x0002C ∨ a = 0x00030 →
      ∃ d, hostWrite 4 a v s = { s with status := { s.status with cmdDrop := true }, resp := { err := false, data := d } })

/-- 20_memory.md §1, §2 (byte order, mixing widths), §3 (side effects). An idle read of n bytes of a memory window that gets no error
response returns them little-endian, 0 at the TREE_MEM offsets from 92 on and the TABLE_MEM offsets from 0xB000 on, and changes nothing
but the answer. After an idle write of n bytes of v to PKT_MEM or OUT_MEM, a read of one byte at the k-th written address returns bits
8k+7 to 8k of v, and every byte of the four memories that was not written reads as before; a write to OUT_MEM changes nothing else. -/
def Obligations.WriteThenReadBytes : Prop :=
  (∀ (s : State) (n : Nat) (a : HostAddr), s.rst = false → s.sequencer = .idle → 0x01000 ≤ a.toNat →
    (hostRead n a s).resp.err = false →
    ∃ d : Word, hostRead n a s = { s with resp := { err := false, data := d } } ∧ d.toNat < 256 ^ n ∧
      ∀ k < n,
        let x := a.toNat + k
        (d >>> (8 * k)).setWidth 8 =
          if x < 0x02000 then (if x < 0x01000 + 92 then s.tree.byte (x - 0x01000) else 0)
          else if x < 0x20000 then (if x < 0x10000 + 0xB000 then s.table.byte (x - 0x10000) else 0)
          else if x < 0x30000 then s.pkt.byte (x - 0x20000)
          else s.out.byte (x - 0x30000)) ∧
  (∀ (s : State) (n : Nat) (a : HostAddr) (v : Word), s.rst = false → s.sequencer = .idle → 0x20000 ≤ a.toNat →
    (hostWrite n a v s).resp.err = false →
    let t := hostWrite n a v s
    (∀ k < n, (hostRead 1 (a + BitVec.ofNat 18 k) t).resp =
      { err := false, data := (v >>> (8 * k)) &&& 0xFF }) ∧
    (∀ x, (a.toNat < 0x30000 → (x < a.toNat - 0x20000 ∨ a.toNat - 0x20000 + n ≤ x) → t.pkt.byte x = s.pkt.byte x) ∧
      (a.toNat < 0x30000 → t.out = s.out) ∧
      (0x30000 ≤ a.toNat → (x < a.toNat - 0x30000 ∨ a.toNat - 0x30000 + n ≤ x) → t.out.byte x = s.out.byte x) ∧
      (0x30000 ≤ a.toNat → t.pkt = s.pkt) ∧ t.tree = s.tree ∧ t.table = s.table) ∧
    (0x30000 ≤ a.toNat → t = { s with out := t.out, resp := t.resp }))

/-- R158: a write to CTRL with bit 1 set resets every register, whatever bit 0 is, and aborts a running command; SYMTAB, which the
host cannot read and to which the spec gives no value then, may hold anything (`tab`). PKT_MEM keeps its bytes, and so do the other
memories outside the region that the aborted command was writing. (Log 9: which N and D count for DECODE_PACKET; the statement says
only that its region lies below the larger of the two numbers it reads. Log 7: the empty workspace after a reset is the model's
choice; 10_state.md R45 calls those contents unspecified.) -/
def Obligations.SoftResetAborts : Prop :=
  ∀ (s : State) (v : Word), s.rst = false → v.getLsbD 1 = true →
    let t := hostWrite 4 0x00020 v s
    (∃ o tr ta n tab d, t = { State.reset with
      params := s.params, pkt := s.pkt, out := o, tree := tr, table := ta, symtab := tab, rst := false, events := s.events,
      resp := { err := false, data := d }, draws := n }) ∧
    (s.sequencer = .idle → t.out = s.out ∧ t.tree = s.tree ∧ t.table = s.table) ∧
    ∀ c, s.sequencer = .running c →
      (∀ e, decodeWord c = .error e → t.out = s.out ∧ t.tree = s.tree ∧ t.table = s.table) ∧
      (∀ i, decodeWord c = .ok i →
        ((i = .nop ∨ i = .parse ∨ i = .clear) → t.out = s.out ∧ t.tree = s.tree ∧ t.table = s.table) ∧
        (i = .buildTree → t.out = s.out ∧ t.table = s.table) ∧
        (i = .genTables → t.out = s.out ∧ t.tree = s.tree) ∧
        ((i = .treeDecode ∨ ∃ k, i = .decode k) →
          t.tree = s.tree ∧ t.table = s.table ∧ ∀ a, s.decodedLen ≤ a → t.out.byte a = s.out.byte a) ∧
        (i = .heapOrder → t.tree = s.tree ∧ t.table = s.table ∧ ∀ a, s.symbolCount ≤ a → t.out.byte a = s.out.byte a) ∧
        ((∃ k, i = .decodePacket k) →
          ∀ a, max (s.le32 8) (s.le32 (20 + 8 * s.le32 8)) ≤ a → t.out.byte a = s.out.byte a))

/-- R157: asserting RST puts every register and the sequencer at its reset value, deasserts IRQ and leaves PHASE EMPTY; the four
memories (`p`, `o`, `tr`, `ta`) and SYMTAB (`tab`) may hold anything. While RST is asserted a host transaction has no effect and a
read returns 0. Releasing RST changes nothing else. (That release changes nothing in every state is the model's reading, log 16; that a
transaction under RST is never an error response is its choice, log 21; the empty workspace is its choice, log 7, where 10_state.md R45 calls the contents unspecified.) -/
def Obligations.HardwareReset : Prop :=
  (∀ (s : State) (es : List Event), s.events = .assertRst :: es →
    ∃ p o tr ta tab r n, step s = .next
      { State.reset with
        params := s.params, pkt := p, out := o, tree := tr, table := ta, symtab := tab, rst := true, events := es, resp := r,
        draws := n }) ∧
  (∀ (s : State) (n : Nat) (a : HostAddr) (v : Word), s.rst = true →
    hostRead n a s = { s with resp := { err := false, data := 0 } } ∧
    ∃ d, hostWrite n a v s = { s with resp := { err := false, data := d } }) ∧
  (∀ (s : State) (es : List Event), s.events = .releaseRst :: es → step s = .next { s with events := es, rst := false }) ∧
  State.reset.irq = false ∧ State.reset.busy = false ∧ State.reset.status.phase = .empty

/-- 70_reset_and_hazards.md §3 (result lifetime): a host transaction that is no soft reset (a read; a write anywhere but to CTRL; a
write to CTRL with bit 1 = 0) changes none of ERR_CODE, ERR_INFO, LAST_OP, the result registers, the header registers, TREE_MEM and
TABLE_MEM, and OUT_MEM only by a write to its window. -/
def Obligations.ResultsOutliveTransactions : Prop :=
  ∀ (s t : State) (n : Nat) (a : HostAddr) (v : Word),
    (t = hostRead n a s ∨ (t = hostWrite n a v s ∧ (a ≠ 0x00020 ∨ v.getLsbD 1 = false))) →
    t.status.errCode = s.status.errCode ∧ t.status.lastOp = s.status.lastOp ∧ t.errInfo = s.errInfo ∧ t.hdr = s.hdr ∧
    t.counts = s.counts ∧ t.results = s.results ∧ t.conv = s.conv ∧ t.symtab = s.symtab ∧ t.tree = s.tree ∧ t.table = s.table ∧
    (a.toNat < 0x30000 ∨ t = hostRead n a s → t.out = s.out)

/-- 60_exceptions.md §4, 10_state.md §3 (CTRL), 20_memory.md §3: IRQ = CTRL.IRQ_EN & STATUS.DONE: with IRQ_EN set it is asserted after every completion, successful or not; writing 1 to
STATUS.DONE, accepting the next command and a reset deassert it; an error response and an access to a memory window never change it.
A write of v to CTRL with bit 1 = 0, whether or not a command runs, sets IRQ_EN to bit 0 of v and changes nothing else.
(What error responses and dropped accesses set, dropped writes to CMD, PKT_LEN and CONV_LIMIT included: ErrorResponses and
BusyAccessesAreDropped.) -/
def Obligations.InterruptFollowsDone : Prop :=
  ∀ s : State,
    s.irq = (s.irqEn && s.status.done) ∧
    (∀ i t, exec i s = .next t → t.irq = s.irqEn) ∧
    (s.rst = false → ∀ v : Word, v.getLsbD 1 = true → (hostWrite 4 0x00024 v s).irq = false) ∧
    (s.rst = false → s.sequencer = .idle → ∀ c, (hostWrite 4 0x00028 c s).irq = false) ∧
    (s.rst = false → ∀ v : Word, v.getLsbD 1 = false →
      ∃ d, hostWrite 4 0x00020 v s = { s with irqEn := v.getLsbD 0, resp := { err := false, data := d } }) ∧
    (s.rst = false → ∀ v : Word, v.getLsbD 1 = true → (hostWrite 4 0x00020 v s).irq = false) ∧
    (∀ es, s.events = .assertRst :: es → ∃ t, step s = .next t ∧ t.irq = false) ∧
    (∀ n a, (hostRead n a s).irq = s.irq) ∧
    (∀ n a v, ((hostWrite n a v s).resp.err = true ∨ 0x01000 ≤ a.toNat) → (hostWrite n a v s).irq = s.irq)
end

