-- ==== Sys2Proof/Laws/Memory.lean ====
section
/-! SUPPORT. The laws of a memory (20_memory.md R47, R53, R54): a read after a write, in and outside the written bytes; reading a run
of bytes is reading its bytes; every memory operation keeps the canonical form; little-endian numbers. -/

namespace Sys2Proof
namespace Machine

/-! ## Lists of cells -/

theorem listedAt_append (xs ys : List Host.Cell) (a : Nat) :
    listedAt (xs ++ ys) a = (listedAt xs a).or (listedAt ys a) := by
  induction xs with
  | nil => simp [listedAt]
  | cons c cs ih => by_cases h : c.1 = a <;> simp [listedAt, h, ih]

theorem listedAt_eq_none {cells : List Host.Cell} {a : Nat} (h : ∀ c ∈ cells, c.1 ≠ a) : listedAt cells a = none := by
  induction cells with
  | nil => rfl
  | cons c cs ih =>
    have hc := h c (by simp)
    simp [listedAt, hc, ih (fun d hd => h d (by simp [hd]))]

theorem listedAt_filter {cells : List Host.Cell} {a : Nat} {p : Host.Cell → Bool} (h : ∀ c ∈ cells, c.1 = a → p c = true) :
    listedAt (cells.filter p) a = listedAt cells a := by
  induction cells with
  | nil => rfl
  | cons c cs ih =>
    have hcs := ih (fun d hd => h d (by simp [hd]))
    by_cases hc : c.1 = a
    · simp [listedAt, h c (by simp) hc, hc]
    · by_cases hp : p c = true <;> simp [listedAt, hp, hc, hcs]

/-- Leaving the cells below an offset behind does not change what is listed from it on. -/
theorem listedAt_dropWhile (cells : List Host.Cell) {a b : Nat} (h : a ≤ b) :
    listedAt (cells.dropWhile (fun c => decide (c.1 < a))) b = listedAt cells b := by
  induction cells with
  | nil => rfl
  | cons c cs ih =>
    by_cases hc : c.1 < a
    · have : c.1 ≠ b := by omega
      simp [hc, ih, listedAt, this]
    · simp [hc, listedAt]

theorem numbered_nil (a : Nat) : numbered a [] = [] := rfl

theorem numbered_cons (a : Nat) (b : Byte) (bs : List Byte) : numbered a (b :: bs) = (a, b) :: numbered (a + 1) bs := rfl

theorem listedAt_numbered (a : Nat) (bs : List Byte) (k : Nat) : listedAt (numbered a bs) (a + k) = bs[k]? := by
  induction bs generalizing a k with
  | nil => rfl
  | cons b bs ih =>
    rw [numbered_cons]
    cases k with
    | zero => simp [listedAt]
    | succ k =>
      have h := ih (a + 1) k
      rw [Nat.add_assoc, Nat.add_comm 1 k] at h
      simp [listedAt, h]

theorem mem_numbered {a : Nat} {bs : List Byte} {c : Host.Cell} (h : c ∈ numbered a bs) : a ≤ c.1 ∧ c.1 < a + bs.length := by
  induction bs generalizing a with
  | nil => simp [numbered_nil] at h
  | cons b bs ih =>
    rw [numbered_cons, List.mem_cons] at h
    rcases h with rfl | h
    · simp
    · have := ih h
      simp only [List.length_cons]
      omega

theorem numbered_pairwise (a : Nat) (bs : List Byte) : (numbered a bs).Pairwise (fun c d => c.1 < d.1) := by
  induction bs generalizing a with
  | nil => simp [numbered_nil]
  | cons b bs ih =>
    rw [numbered_cons, List.pairwise_cons]
    exact ⟨fun c hc => by have := mem_numbered hc; show a < c.1; omega, ih (a + 1)⟩

/-! ## Reading -/

theorem Memory.gather_eq (m : Memory) (n a : Nat) (cells : List Host.Cell) (acc : List Byte) :
    m.gather n a cells acc = acc.reverse ++ (List.range n).map (fun k => (listedAt cells (a + k)).getD (m.unlisted (a + k))) := by
  induction n generalizing a cells acc with
  | zero => simp [Memory.gather]
  | succ n ih =>
    rw [Memory.gather, ih, List.range_succ_eq_map]
    simp only [List.reverse_cons, List.append_assoc, List.map_cons, List.map_map, Nat.add_zero, List.singleton_append,
      listedAt_dropWhile _ (Nat.le_refl a)]
    congr 2
    apply List.map_congr_left
    intro k _
    have e : a + 1 + k = a + (k + 1) := by omega
    simp only [Function.comp_apply, e, listedAt_dropWhile cells (show a ≤ a + (k + 1) by omega)]

/-- Reading a run of bytes is reading its bytes one by one (R54). -/
theorem Memory.bytes_eq_map (m : Memory) (a n : Nat) : m.bytes a n = (List.range n).map (fun k => m.byte (a + k)) := by
  simp [Memory.bytes, Memory.gather_eq, Memory.byte]

@[simp] theorem Memory.bytes_length (m : Memory) (a n : Nat) : (m.bytes a n).length = n := by
  simp [Memory.bytes_eq_map]

theorem Memory.bytes_getElem (m : Memory) (a n : Nat) {k : Nat} (h : k < (m.bytes a n).length) :
    (m.bytes a n)[k] = m.byte (a + k) := by
  simp [Memory.bytes_eq_map]

theorem Memory.bytes_getD (m : Memory) (a : Nat) {n k : Nat} (h : k < n) (d : Byte) :
    (m.bytes a n).getD k d = m.byte (a + k) := by
  rw [List.getD_eq_getElem _ _ (by simpa using h), Memory.bytes_getElem]

theorem Memory.bytes_append (m : Memory) (a n k : Nat) : m.bytes a (n + k) = m.bytes a n ++ m.bytes (a + n) k := by
  simp [Memory.bytes_eq_map, List.range_add, Function.comp_def, Nat.add_assoc]

/-- Two memories that agree byte by byte on a run agree on the run. -/
theorem Memory.bytes_congr {m m' : Memory} {a n : Nat} (h : ∀ k < n, m.byte (a + k) = m'.byte (a + k)) :
    m.bytes a n = m'.bytes a n := by
  rw [Memory.bytes_eq_map, Memory.bytes_eq_map]
  exact List.map_congr_left (fun k hk => h k (List.mem_range.1 hk))

/-! ## Writing -/

@[simp] theorem Memory.put_era (m : Memory) (a : Nat) (bs : List Byte) : (m.put a bs).era = m.era := rfl

/-- A byte that was written reads as written. -/
theorem Memory.byte_put_inside (m : Memory) (a : Nat) (bs : List Byte) {k : Nat} (h : k < bs.length) :
    (m.put a bs).byte (a + k) = bs[k] := by
  have below : listedAt (m.cells.filter (fun c => decide (c.1 < a))) (a + k) = none :=
    listedAt_eq_none (fun c hc => by simp at hc; omega)
  simp [Memory.byte, Memory.put, listedAt_append, below, listedAt_numbered, List.getElem?_eq_getElem h]

/-- A byte outside the written ones reads as before. -/
theorem Memory.byte_put_outside (m : Memory) (a : Nat) (bs : List Byte) {x : Nat} (h : x < a ∨ a + bs.length ≤ x) :
    (m.put a bs).byte x = m.byte x := by
  have inside : listedAt (numbered a bs) x = none :=
    listedAt_eq_none (fun c hc => by have := mem_numbered hc; omega)
  rcases h with h | h
  · have above : listedAt (m.cells.filter (fun c => decide (a + bs.length ≤ c.1))) x = none :=
      listedAt_eq_none (fun c hc => by simp at hc; omega)
    have below := listedAt_filter (cells := m.cells) (a := x) (p := fun c => decide (c.1 < a))
      (fun c _ hc => by simp [hc, h])
    simp [Memory.byte, Memory.put, Memory.unlisted, listedAt_append, inside, above, below]
  · have below : listedAt (m.cells.filter (fun c => decide (c.1 < a))) x = none :=
      listedAt_eq_none (fun c hc => by simp at hc; omega)
    have above := listedAt_filter (cells := m.cells) (a := x) (p := fun c => decide (a + bs.length ≤ c.1))
      (fun c _ hc => by simp [hc, h])
    simp [Memory.byte, Memory.put, Memory.unlisted, listedAt_append, inside, above, below]

/-- Reading back what was written. -/
theorem Memory.bytes_put_self (m : Memory) (a : Nat) (bs : List Byte) : (m.put a bs).bytes a bs.length = bs := by
  apply List.ext_getElem (by simp)
  intro k h1 h2
  rw [Memory.bytes_getElem, Memory.byte_put_inside _ _ _ h2]

/-- Reading a part of what was written from offset 0 on. -/
theorem Memory.bytes_put_zero (m : Memory) (bs : List Byte) {a n : Nat} (h : a + n ≤ bs.length) :
    (m.put 0 bs).bytes a n = (bs.drop a).take n := by
  apply List.ext_getElem (by simp; omega)
  intro k h1 h2
  have hk : a + k < bs.length := by simp at h1; omega
  have := m.byte_put_inside 0 bs hk
  rw [Nat.zero_add] at this
  rw [Memory.bytes_getElem, this]
  simp

/-- Writing the same bytes again changes nothing (44_decode.md R132). -/
theorem Memory.put_put_self (m : Memory) (a : Nat) (bs bs' : List Byte) (h : bs.length = bs'.length) :
    (m.put a bs).put a bs' = m.put a bs' := by
  have inside : ∀ p : Host.Cell → Bool, (∀ c ∈ numbered a bs, p c = false) → (numbered a bs).filter p = [] :=
    fun p hp => List.filter_eq_nil_iff.2 (fun c hc => by simp [hp c hc])
  have h1 := inside (fun c => decide (c.1 < a)) (fun c hc => by have := mem_numbered hc; simp; omega)
  have h2 := inside (fun c => decide (a + bs'.length ≤ c.1)) (fun c hc => by have := mem_numbered hc; simp; omega)
  have h3 : ∀ c : Host.Cell, (decide (c.1 < a) && decide (a + bs'.length ≤ c.1)) = false := fun c => by simp; omega
  have h4 : ∀ c : Host.Cell, (decide (a + bs'.length ≤ c.1) && decide (c.1 < a)) = false := fun c => by simp; omega
  simp only [Memory.put, List.filter_append, h1, h2, List.filter_filter, h3, h4, h, Bool.and_self]
  simp only [List.filter_false, List.append_nil, List.nil_append]

/-! ## The canonical form -/

theorem Memory.unspecified_wf (draw size : Nat) : (Memory.unspecified draw).wf size := by
  exact ⟨List.Pairwise.nil, fun c hc => by simp [Memory.unspecified] at hc⟩

/-- Every write within the size keeps the canonical form. -/
theorem Memory.put_wf {m : Memory} {size a : Nat} {bs : List Byte} (hm : m.wf size) (h : a + bs.length ≤ size) :
    (m.put a bs).wf size := by
  obtain ⟨hp, hs⟩ := hm
  refine ⟨?_, ?_⟩
  · show (_ ++ _ ++ _ : List Host.Cell).Pairwise _
    rw [List.pairwise_append, List.pairwise_append]
    refine ⟨⟨hp.filter _, numbered_pairwise a bs, ?_⟩, hp.filter _, ?_⟩
    · intro c hc d hd
      have := mem_numbered hd
      simp at hc
      omega
    · intro c hc d hd
      simp only [List.mem_append, List.mem_filter, decide_eq_true_eq] at hc hd
      rcases hc with hc | hc
      · omega
      · have := mem_numbered hc
        omega
  · intro c hc
    simp only [Memory.put, List.mem_append, List.mem_filter] at hc
    rcases hc with (hc | hc) | hc
    · exact hs c hc.1
    · have := mem_numbered hc
      omega
    · exact hs c hc.1

/-! ## Little-endian numbers (R53) -/

theorem fromBytes_lt (bs : List Byte) : fromBytes bs < 256 ^ bs.length := by
  induction bs with
  | nil => simp [fromBytes]
  | cons b bs ih =>
    have hb := b.isLt
    simp only [fromBytes, List.length_cons, Nat.pow_succ]
    omega

@[simp] theorem toBytes_length (n v : Nat) : (toBytes n v).length = n := by
  induction n generalizing v with
  | zero => rfl
  | succ n ih => simp [toBytes, ih]

/-- Byte k of the bytes of v is bits 8k+7 to 8k of v (R53). -/
theorem toBytes_getElem (n v : Nat) {k : Nat} (h : k < (toBytes n v).length) :
    (toBytes n v)[k] = BitVec.ofNat 8 (v / 256 ^ k) := by
  induction n generalizing v k with
  | zero => simp [toBytes] at h
  | succ n ih =>
    cases k with
    | zero => simp [toBytes]
    | succ k =>
      simp only [toBytes, List.getElem_cons_succ]
      rw [ih (v / 256) (by simpa [toBytes] using h), Nat.div_div_eq_div_mul, ← Nat.pow_succ']

/-- Reading back the n low bytes of v gives v modulo 2^(8n). -/
theorem fromBytes_toBytes (n v : Nat) : fromBytes (toBytes n v) = v % 256 ^ n := by
  induction n generalizing v with
  | zero => simp [toBytes, fromBytes, Nat.mod_one]
  | succ n ih =>
    have e : (256 : Nat) ^ (n + 1) = 256 * 256 ^ n := Nat.pow_succ'
    simp only [toBytes, fromBytes, ih, BitVec.toNat_ofNat, e, Nat.mod_mul]

/-- Byte k of the number that bytes stand for is the k-th byte (20_memory.md R53). -/
theorem fromBytes_getElem (bs : List Byte) {k : Nat} (h : k < bs.length) : BitVec.ofNat 8 (fromBytes bs / 2 ^ (8 * k)) = bs[k] := by
  induction bs generalizing k with
  | nil => simp at h
  | cons b bs ih =>
    have hb := b.isLt
    cases k with
    | zero =>
      apply BitVec.eq_of_toNat_eq
      simp [fromBytes]
      omega
    | succ k =>
      have hk : k < bs.length := by simpa using h
      rw [List.getElem_cons_succ, ← ih hk, show 8 * (k + 1) = 8 + 8 * k by omega, pow_add, ← Nat.div_div_eq_div_mul]
      congr 2
      simp only [fromBytes]
      omega

theorem Memory.le_lt (m : Memory) (a n : Nat) : m.le a n < 256 ^ n := by
  have := fromBytes_lt (m.bytes a n)
  rwa [Memory.bytes_length] at this

theorem freeBytes_length (draw n : Nat) : (freeBytes draw n).length = n := by
  simp [freeBytes]

end Machine
end Sys2Proof
end

