-- ==== Sys2Proof/Laws/Automaton.lean ====
section
/-! SUPPORT. The byte-wise automaton that the statements about CH_CONV speak of (44_decode.md R119, R122). -/

namespace Sys2Proof
namespace Machine

@[simp] theorem automaton_nil (table : Memory) (states st : Nat) : automaton table states st [] = some st := rfl

/-- One byte whose slot passes its check. -/
theorem automaton_cons_ok {table : Memory} {states st : Nat} {v : Byte} {e : Slot} (h : readSlot table states st v = .ok e)
    (rest : List Byte) : automaton table states st (v :: rest) = automaton table states e.next rest := by
  simp only [automaton, h]

/-- One byte whose slot fails its check. -/
theorem automaton_cons_error {table : Memory} {states st : Nat} {v : Byte} {e : Ending}
    (h : readSlot table states st v = .error e) (rest : List Byte) : automaton table states st (v :: rest) = none := by
  simp only [automaton, h]

/-- Bytes one after the other: the second part starts in the state that the first part leaves. -/
theorem automaton_append (table : Memory) (states st : Nat) (xs ys : List Byte) :
    automaton table states st (xs ++ ys) =
      (automaton table states st xs).bind (fun st' => automaton table states st' ys) := by
  induction xs generalizing st with
  | nil => rfl
  | cons v rest ih =>
    simp only [List.cons_append, automaton]
    cases readSlot table states st v with
    | error e => rfl
    | ok e => exact ih e.next

@[simp] theorem State.trueState_zero (s : State) : s.trueState 0 = some 0 := by simp [State.trueState]

@[simp] theorem State.speculatedState_zero (s : State) (first : Nat) : s.speculatedState first 0 = some 0 := by
  simp [State.speculatedState]

/-- At the bitstream's start the D-th symbol is pending exactly where there is one. -/
theorem State.outputPending_zero (s : State) : s.outputPending 0 ↔ 0 < s.decodedLen := by
  simp only [State.outputPending, List.take_zero, seqLoop, Emitted.start]
  constructor
  · rintro ⟨w, h, _⟩
    omega
  · intro h
    exact ⟨0, h, by simp [h]⟩

end Machine
end Sys2Proof
end

