-- ==== Sys2Proof/Laws/Channel.lean ====
section
/-! SUPPORT. What the slot check, the emission, the single-channel loop, the speculative pass and the merge can answer (44_decode.md
R117 to R125). -/

namespace Sys2Proof
namespace Machine

/-! ## Slots (R118) -/

/-- A slot that is refused: E_CORRUPT with the state and the byte. -/
theorem readSlot_error {table : Memory} {states st : Nat} {v : Byte} {e : Ending} (h : readSlot table states st v = .error e) :
    e = { code := .corrupt, info := BitVec.ofNat 32 (st * 256 + v.toNat) } := by
  unfold readSlot at h
  simp only at h
  split at h <;> cases h
  rfl

/-- A slot that is accepted: its state and its next state are in use, and it has as many symbols as its mask has bits, at most 8. -/
theorem readSlot_ok {table : Memory} {states st : Nat} {v : Byte} {e : Slot} (h : readSlot table states st v = .ok e) :
    st < states ∧ e.next < states ∧ e.syms.length ≤ 8 ∧ e.syms.length = (setBits e.mask).length := by
  unfold readSlot at h
  simp only at h
  split at h
  · cases h
  · rename_i hc
    simp only [Config.maxEmit, not_or, Nat.not_le, Nat.not_lt, ne_eq, Decidable.not_not] at hc
    cases h
    simp only [List.length_take, Memory.bytes_length]
    omega

/-! ## Emission (R117) -/

/-- What an output satisfies between two symbols: its length is w, w ≤ D and BITS_USED ≤ B. -/
structure Emitted.Fits (m : Emitted) (d b : Nat) : Prop where
  length : m.rev.length = m.w
  count : m.w ≤ d
  used : m.bits ≤ b

theorem Emitted.start_fits (d b : Nat) : Emitted.start.Fits d b := ⟨rfl, Nat.zero_le _, Nat.zero_le _⟩

/-- Emission keeps that, and can fail with E_LENGTH only. -/
theorem emitSymbols_cases {d b j : Nat} {xs : List (Byte × Nat)} {m : Emitted} (hm : m.Fits d b) :
    (∃ m', emitSymbols d b j xs m = .ok m' ∧ m'.Fits d b) ∨ (∃ w, emitSymbols d b j xs m = .error (lengthEnding w)) := by
  induction xs generalizing m with
  | nil => exact .inl ⟨m, rfl, hm⟩
  | cons x xs ih =>
    simp only [emitSymbols]
    split
    · exact .inl ⟨m, rfl, hm⟩
    · split
      · exact .inr ⟨_, rfl⟩
      · refine ih ⟨by simp [hm.length], ?_, ?_⟩
        · have := hm.count
          show m.w + 1 ≤ d
          omega
        · have := hm.used
          show (if m.w + 1 = d then 8 * j + x.2 else m.bits) ≤ b
          split <;> omega

theorem emitSlot_cases {d b j : Nat} {e : Slot} {m : Emitted} (hm : m.Fits d b) :
    (∃ m', emitSlot d b j e m = .ok m' ∧ m'.Fits d b) ∨ (∃ w, emitSlot d b j e m = .error (lengthEnding w)) :=
  emitSymbols_cases hm

/-! ## The single-channel loop (R119) -/

/-- The loop ends with D symbols within B bits, with E_LENGTH, or with the E_CORRUPT of a slot. -/
theorem seqLoop_cases {table : Memory} {states d b : Nat} {bs : List Byte} {j st : Nat} {m : Emitted} (hm : m.Fits d b) :
    (∃ fin m', seqLoop table states d b bs j st m = .ok (fin, m') ∧ m'.Fits d b ∧ m'.w = d) ∨
    (∃ w, seqLoop table states d b bs j st m = .error (lengthEnding w)) ∨
    (∃ e, seqLoop table states d b bs j st m = .error e ∧ e.code = .corrupt) := by
  induction bs generalizing j st m with
  | nil =>
    have := hm.count
    simp only [seqLoop]
    split
    · exact .inr (.inl ⟨_, rfl⟩)
    · exact .inl ⟨st, m, rfl, hm, by omega⟩
  | cons v bs ih =>
    have := hm.count
    simp only [seqLoop]
    split
    · cases hs : readSlot table states st v with
      | error e => exact .inr (.inr ⟨e, rfl, by rw [readSlot_error hs]⟩)
      | ok e =>
        rcases emitSlot_cases (j := j) (e := e) hm with ⟨m', he, hf⟩ | ⟨w, he⟩
        · simp only [he]
          exact ih hf
        · exact .inr (.inl ⟨w, by simp only [he]⟩)
    · exact .inl ⟨st, m, rfl, hm, by omega⟩

/-! ## The speculative pass (R122) -/

theorem channelRun_error {table : Memory} {states : Nat} {bs : List Byte} {st : Nat} {e : Ending}
    (h : channelRun table states bs st = .error e) : e.code = .corrupt := by
  induction bs generalizing st with
  | nil => simp [channelRun] at h
  | cons v bs ih =>
    simp only [channelRun] at h
    split at h
    · rename_i hs
      cases h
      rw [readSlot_error hs]
    · split at h
      · rename_i hr
        cases h
        exact ih hr
      · cases h

/-- The speculative pass fails with E_CORRUPT only. -/
theorem speculate_error {table : Memory} {states : Nat} {segs : List (List Byte)} {e : Ending}
    (h : speculate table states segs = .error e) : e.code = .corrupt := by
  induction segs with
  | nil => simp [speculate] at h
  | cons seg segs ih =>
    simp only [speculate] at h
    split at h
    · rename_i hr
      cases h
      exact channelRun_error hr
    · split at h
      · rename_i hr
        cases h
        exact ih hr
      · cases h

/-- Every channel unit has stored one slot and one state for every byte of its segment (10_state.md R43). -/
theorem channelRun_ok_length {table : Memory} {states : Nat} {bs : List Byte} {st : Nat} {c : Channel}
    (h : channelRun table states bs st = .ok c) : c.specE.length = bs.length ∧ c.specS.length = bs.length := by
  induction bs generalizing st c with
  | nil =>
    simp only [channelRun, Except.ok.injEq] at h
    simp [← h]
  | cons v bs ih =>
    simp only [channelRun] at h
    split at h
    · cases h
    · split at h
      · cases h
      · rename_i hr
        cases h
        simp [ih hr]

theorem speculate_ok_length {table : Memory} {states : Nat} {segs : List (List Byte)} {cs : List Channel}
    (h : speculate table states segs = .ok cs) : cs.length = segs.length := by
  induction segs generalizing cs with
  | nil =>
    simp only [speculate, Except.ok.injEq] at h
    simp [← h]
  | cons seg segs ih =>
    simp only [speculate] at h
    split at h
    · cases h
    · split at h
      · cases h
      · rename_i hr
        cases h
        simp [ih hr]

/-! ## The merge (R124) -/

/-- What the merger satisfies between two bytes: its output fits; done means that D symbols are out, and that nothing was raised; an
error that was raised is E_LENGTH or E_CORRUPT. -/
structure Merger.Fits (m : Merger) (d b : Nat) : Prop where
  emitted : m.emitted.Fits d b
  done : m.done = true → m.emitted.w = d ∧ m.raised = none
  raised : ∀ e, m.raised = some e → (∃ w, e = lengthEnding w) ∨ e.code = .corrupt

theorem Merger.start_fits (d b : Nat) : (Merger.start d).Fits d b where
  emitted := Emitted.start_fits d b
  done h := by simp [Merger.start, Emitted.start] at h ⊢; exact h.symm
  raised e h := by simp [Merger.start] at h

theorem Merger.enter_fits {m : Merger} {d b : Nat} (hm : m.Fits d b) (i : Nat) : (m.enter i).Fits d b := by
  unfold Merger.enter
  split
  · exact hm
  · split <;> exact ⟨hm.emitted, hm.done, hm.raised⟩

theorem Merger.compare_fits {m : Merger} {d b : Nat} (hm : m.Fits d b) (limit specS : Nat) : (m.compare limit specS).Fits d b := by
  unfold Merger.compare
  split
  · exact ⟨hm.emitted, hm.done, hm.raised⟩
  · split
    · exact ⟨hm.emitted, hm.done, hm.raised⟩
    · exact hm

theorem Merger.byte_fits {m : Merger} {d b : Nat} (hm : m.Fits d b) (table : Memory) (states limit j : Nat) (v : Byte) (specE : Slot)
    (specS : Nat) : (m.byte table states d b limit j v specE specS).Fits d b := by
  unfold Merger.byte
  split
  · exact hm
  · rename_i hstop
    have hrun : m.done = false ∧ m.raised = none := by
      simpa [Merger.stopped] using hstop
    split
    · rename_i e he
      refine ⟨hm.emitted, fun h => ?_, fun e' h => .inr ?_⟩
      · simp [hrun.1] at h
      · have hee : e = e' := by simpa using h
        split at he
        · cases he
        · rw [← hee, readSlot_error he]
    · rename_i e _
      rcases emitSlot_cases (j := j) (e := e) hm.emitted with ⟨m', he, hf⟩ | ⟨w, he⟩
      · simp only [he]
        split
        · rename_i hw
          exact ⟨hf, fun _ => ⟨hw, hrun.2⟩, fun e' h => by simp [hrun.2] at h⟩
        · have base : ∀ k, ({ m with k := k, emitted := m', st := e.next } : Merger).Fits d b := fun k =>
            ⟨hf, fun h => by simp [hrun.1] at h, fun e' h => by simp [hrun.2] at h⟩
          split
          · exact base _
          · exact Merger.compare_fits (base _) limit specS
      · simp only [he]
        refine ⟨hm.emitted, fun h => ?_, fun e' h => .inl ⟨w, ?_⟩⟩
        · simp [hrun.1] at h
        · exact (Option.some.inj h).symm

theorem Merger.segment_fits {d b : Nat} (table : Memory) (states limit : Nat) {m : Merger} (hm : m.Fits d b) (j : Nat)
    (vs : List Byte) (es : List Slot) (sts : List Nat) : (Merger.segment table states d b limit m j vs es sts).Fits d b := by
  induction vs generalizing m j es sts with
  | nil => simpa [Merger.segment] using hm
  | cons v vs ih =>
    cases es with
    | nil => simpa [Merger.segment] using hm
    | cons e es =>
      cases sts with
      | nil => simpa [Merger.segment] using hm
      | cons st sts =>
        simp only [Merger.segment]
        exact ih (Merger.byte_fits hm table states limit j v e st) _ _ _

/-- The whole merge keeps it. -/
theorem Merger.walk_fits {d b : Nat} (table : Memory) (states limit : Nat) {m : Merger} (hm : m.Fits d b) (i j : Nat)
    (segs : List (List Byte)) (cs : List Channel) : (Merger.walk table states d b limit m i j segs cs).Fits d b := by
  induction segs generalizing m i j cs with
  | nil => simpa [Merger.walk] using hm
  | cons seg segs ih =>
    cases cs with
    | nil => simpa [Merger.walk] using hm
    | cons c cs =>
      simp only [Merger.walk]
      exact ih (Merger.segment_fits table states limit (Merger.enter_fits hm i) j seg c.specE c.specS) _ _ _

/-- DECODE's merge: what it leaves fits D and B. -/
theorem State.merge_fits (s : State) (k : Nat) : (s.merge k).Fits s.decodedLen s.bitCount :=
  Merger.walk_fits _ _ _ (Merger.start_fits _ _) _ _ _ _

end Machine
end Sys2Proof
end

