-- ==== Sys2Proof/Laws/State.lean ====
section
/-! SUPPORT. One lemma per field per named update of the state (Machine/Ops.lean, Machine/Flags.lean), true by rfl: later proofs
need not unfold a record update. -/

namespace Sys2Proof
namespace Machine

variable (s : State)

@[simp] theorem State.withEvents_params (es : List Event) : (s.withEvents es).params = s.params := rfl
@[simp] theorem State.withEvents_irqEn (es : List Event) : (s.withEvents es).irqEn = s.irqEn := rfl
@[simp] theorem State.withEvents_status (es : List Event) : (s.withEvents es).status = s.status := rfl
@[simp] theorem State.withEvents_pktLen (es : List Event) : (s.withEvents es).pktLen = s.pktLen := rfl
@[simp] theorem State.withEvents_convLimit (es : List Event) : (s.withEvents es).convLimit = s.convLimit := rfl
@[simp] theorem State.withEvents_errInfo (es : List Event) : (s.withEvents es).errInfo = s.errInfo := rfl
@[simp] theorem State.withEvents_hdr (es : List Event) : (s.withEvents es).hdr = s.hdr := rfl
@[simp] theorem State.withEvents_counts (es : List Event) : (s.withEvents es).counts = s.counts := rfl
@[simp] theorem State.withEvents_results (es : List Event) : (s.withEvents es).results = s.results := rfl
@[simp] theorem State.withEvents_conv (es : List Event) : (s.withEvents es).conv = s.conv := rfl
@[simp] theorem State.withEvents_symtab (es : List Event) : (s.withEvents es).symtab = s.symtab := rfl
@[simp] theorem State.withEvents_work (es : List Event) : (s.withEvents es).work = s.work := rfl
@[simp] theorem State.withEvents_sequencer (es : List Event) : (s.withEvents es).sequencer = s.sequencer := rfl
@[simp] theorem State.withEvents_pkt (es : List Event) : (s.withEvents es).pkt = s.pkt := rfl
@[simp] theorem State.withEvents_out (es : List Event) : (s.withEvents es).out = s.out := rfl
@[simp] theorem State.withEvents_tree (es : List Event) : (s.withEvents es).tree = s.tree := rfl
@[simp] theorem State.withEvents_table (es : List Event) : (s.withEvents es).table = s.table := rfl
@[simp] theorem State.withEvents_rst (es : List Event) : (s.withEvents es).rst = s.rst := rfl
@[simp] theorem State.withEvents_events (es : List Event) : (s.withEvents es).events = es := rfl
@[simp] theorem State.withEvents_resp (es : List Event) : (s.withEvents es).resp = s.resp := rfl
@[simp] theorem State.withEvents_draws (es : List Event) : (s.withEvents es).draws = s.draws := rfl

@[simp] theorem State.answer_params (e : Bool) (d : Word) : (s.answer e d).params = s.params := rfl
@[simp] theorem State.answer_irqEn (e : Bool) (d : Word) : (s.answer e d).irqEn = s.irqEn := rfl
@[simp] theorem State.answer_status (e : Bool) (d : Word) : (s.answer e d).status = s.status := rfl
@[simp] theorem State.answer_pktLen (e : Bool) (d : Word) : (s.answer e d).pktLen = s.pktLen := rfl
@[simp] theorem State.answer_convLimit (e : Bool) (d : Word) : (s.answer e d).convLimit = s.convLimit := rfl
@[simp] theorem State.answer_errInfo (e : Bool) (d : Word) : (s.answer e d).errInfo = s.errInfo := rfl
@[simp] theorem State.answer_hdr (e : Bool) (d : Word) : (s.answer e d).hdr = s.hdr := rfl
@[simp] theorem State.answer_counts (e : Bool) (d : Word) : (s.answer e d).counts = s.counts := rfl
@[simp] theorem State.answer_results (e : Bool) (d : Word) : (s.answer e d).results = s.results := rfl
@[simp] theorem State.answer_conv (e : Bool) (d : Word) : (s.answer e d).conv = s.conv := rfl
@[simp] theorem State.answer_symtab (e : Bool) (d : Word) : (s.answer e d).symtab = s.symtab := rfl
@[simp] theorem State.answer_work (e : Bool) (d : Word) : (s.answer e d).work = s.work := rfl
@[simp] theorem State.answer_sequencer (e : Bool) (d : Word) : (s.answer e d).sequencer = s.sequencer := rfl
@[simp] theorem State.answer_pkt (e : Bool) (d : Word) : (s.answer e d).pkt = s.pkt := rfl
@[simp] theorem State.answer_out (e : Bool) (d : Word) : (s.answer e d).out = s.out := rfl
@[simp] theorem State.answer_tree (e : Bool) (d : Word) : (s.answer e d).tree = s.tree := rfl
@[simp] theorem State.answer_table (e : Bool) (d : Word) : (s.answer e d).table = s.table := rfl
@[simp] theorem State.answer_rst (e : Bool) (d : Word) : (s.answer e d).rst = s.rst := rfl
@[simp] theorem State.answer_events (e : Bool) (d : Word) : (s.answer e d).events = s.events := rfl
@[simp] theorem State.answer_resp (e : Bool) (d : Word) : (s.answer e d).resp = { err := e, data := d } := rfl
@[simp] theorem State.answer_draws (e : Bool) (d : Word) : (s.answer e d).draws = s.draws := rfl

@[simp] theorem State.setStatus_params (st : Status) : (s.setStatus st).params = s.params := rfl
@[simp] theorem State.setStatus_irqEn (st : Status) : (s.setStatus st).irqEn = s.irqEn := rfl
@[simp] theorem State.setStatus_status (st : Status) : (s.setStatus st).status = st := rfl
@[simp] theorem State.setStatus_pktLen (st : Status) : (s.setStatus st).pktLen = s.pktLen := rfl
@[simp] theorem State.setStatus_convLimit (st : Status) : (s.setStatus st).convLimit = s.convLimit := rfl
@[simp] theorem State.setStatus_errInfo (st : Status) : (s.setStatus st).errInfo = s.errInfo := rfl
@[simp] theorem State.setStatus_hdr (st : Status) : (s.setStatus st).hdr = s.hdr := rfl
@[simp] theorem State.setStatus_counts (st : Status) : (s.setStatus st).counts = s.counts := rfl
@[simp] theorem State.setStatus_results (st : Status) : (s.setStatus st).results = s.results := rfl
@[simp] theorem State.setStatus_conv (st : Status) : (s.setStatus st).conv = s.conv := rfl
@[simp] theorem State.setStatus_symtab (st : Status) : (s.setStatus st).symtab = s.symtab := rfl
@[simp] theorem State.setStatus_work (st : Status) : (s.setStatus st).work = s.work := rfl
@[simp] theorem State.setStatus_sequencer (st : Status) : (s.setStatus st).sequencer = s.sequencer := rfl
@[simp] theorem State.setStatus_pkt (st : Status) : (s.setStatus st).pkt = s.pkt := rfl
@[simp] theorem State.setStatus_out (st : Status) : (s.setStatus st).out = s.out := rfl
@[simp] theorem State.setStatus_tree (st : Status) : (s.setStatus st).tree = s.tree := rfl
@[simp] theorem State.setStatus_table (st : Status) : (s.setStatus st).table = s.table := rfl
@[simp] theorem State.setStatus_rst (st : Status) : (s.setStatus st).rst = s.rst := rfl
@[simp] theorem State.setStatus_events (st : Status) : (s.setStatus st).events = s.events := rfl
@[simp] theorem State.setStatus_resp (st : Status) : (s.setStatus st).resp = s.resp := rfl
@[simp] theorem State.setStatus_draws (st : Status) : (s.setStatus st).draws = s.draws := rfl

@[simp] theorem State.setPhase_params (p : Phase) : (s.setPhase p).params = s.params := rfl
@[simp] theorem State.setPhase_irqEn (p : Phase) : (s.setPhase p).irqEn = s.irqEn := rfl
@[simp] theorem State.setPhase_status (p : Phase) : (s.setPhase p).status = { s.status with phase := p } := rfl
@[simp] theorem State.setPhase_pktLen (p : Phase) : (s.setPhase p).pktLen = s.pktLen := rfl
@[simp] theorem State.setPhase_convLimit (p : Phase) : (s.setPhase p).convLimit = s.convLimit := rfl
@[simp] theorem State.setPhase_errInfo (p : Phase) : (s.setPhase p).errInfo = s.errInfo := rfl
@[simp] theorem State.setPhase_hdr (p : Phase) : (s.setPhase p).hdr = s.hdr := rfl
@[simp] theorem State.setPhase_counts (p : Phase) : (s.setPhase p).counts = s.counts := rfl
@[simp] theorem State.setPhase_results (p : Phase) : (s.setPhase p).results = s.results := rfl
@[simp] theorem State.setPhase_conv (p : Phase) : (s.setPhase p).conv = s.conv := rfl
@[simp] theorem State.setPhase_symtab (p : Phase) : (s.setPhase p).symtab = s.symtab := rfl
@[simp] theorem State.setPhase_work (p : Phase) : (s.setPhase p).work = s.work := rfl
@[simp] theorem State.setPhase_sequencer (p : Phase) : (s.setPhase p).sequencer = s.sequencer := rfl
@[simp] theorem State.setPhase_pkt (p : Phase) : (s.setPhase p).pkt = s.pkt := rfl
@[simp] theorem State.setPhase_out (p : Phase) : (s.setPhase p).out = s.out := rfl
@[simp] theorem State.setPhase_tree (p : Phase) : (s.setPhase p).tree = s.tree := rfl
@[simp] theorem State.setPhase_table (p : Phase) : (s.setPhase p).table = s.table := rfl
@[simp] theorem State.setPhase_rst (p : Phase) : (s.setPhase p).rst = s.rst := rfl
@[simp] theorem State.setPhase_events (p : Phase) : (s.setPhase p).events = s.events := rfl
@[simp] theorem State.setPhase_resp (p : Phase) : (s.setPhase p).resp = s.resp := rfl
@[simp] theorem State.setPhase_draws (p : Phase) : (s.setPhase p).draws = s.draws := rfl

@[simp] theorem State.accept_params (c : Word) : (s.accept c).params = s.params := rfl
@[simp] theorem State.accept_irqEn (c : Word) : (s.accept c).irqEn = s.irqEn := rfl
@[simp] theorem State.accept_status (c : Word) : (s.accept c).status = { s.status with done := false, err := false } := rfl
@[simp] theorem State.accept_pktLen (c : Word) : (s.accept c).pktLen = s.pktLen := rfl
@[simp] theorem State.accept_convLimit (c : Word) : (s.accept c).convLimit = s.convLimit := rfl
@[simp] theorem State.accept_errInfo (c : Word) : (s.accept c).errInfo = s.errInfo := rfl
@[simp] theorem State.accept_hdr (c : Word) : (s.accept c).hdr = s.hdr := rfl
@[simp] theorem State.accept_counts (c : Word) : (s.accept c).counts = s.counts := rfl
@[simp] theorem State.accept_results (c : Word) : (s.accept c).results = s.results := rfl
@[simp] theorem State.accept_conv (c : Word) : (s.accept c).conv = s.conv := rfl
@[simp] theorem State.accept_symtab (c : Word) : (s.accept c).symtab = s.symtab := rfl
@[simp] theorem State.accept_work (c : Word) : (s.accept c).work = s.work := rfl
@[simp] theorem State.accept_sequencer (c : Word) : (s.accept c).sequencer = .running c := rfl
@[simp] theorem State.accept_pkt (c : Word) : (s.accept c).pkt = s.pkt := rfl
@[simp] theorem State.accept_out (c : Word) : (s.accept c).out = s.out := rfl
@[simp] theorem State.accept_tree (c : Word) : (s.accept c).tree = s.tree := rfl
@[simp] theorem State.accept_table (c : Word) : (s.accept c).table = s.table := rfl
@[simp] theorem State.accept_rst (c : Word) : (s.accept c).rst = s.rst := rfl
@[simp] theorem State.accept_events (c : Word) : (s.accept c).events = s.events := rfl
@[simp] theorem State.accept_resp (c : Word) : (s.accept c).resp = s.resp := rfl
@[simp] theorem State.accept_draws (c : Word) : (s.accept c).draws = s.draws := rfl

@[simp] theorem State.finish_params (op : Byte) (e : Ending) : (s.finish op e).params = s.params := rfl
@[simp] theorem State.finish_irqEn (op : Byte) (e : Ending) : (s.finish op e).irqEn = s.irqEn := rfl
@[simp] theorem State.finish_status (op : Byte) (e : Ending) : (s.finish op e).status = { s.status with errCode := e.code, lastOp := op, err := decide (e.code ≠ .ok), done := true } := rfl
@[simp] theorem State.finish_pktLen (op : Byte) (e : Ending) : (s.finish op e).pktLen = s.pktLen := rfl
@[simp] theorem State.finish_convLimit (op : Byte) (e : Ending) : (s.finish op e).convLimit = s.convLimit := rfl
@[simp] theorem State.finish_errInfo (op : Byte) (e : Ending) : (s.finish op e).errInfo = e.info := rfl
@[simp] theorem State.finish_hdr (op : Byte) (e : Ending) : (s.finish op e).hdr = s.hdr := rfl
@[simp] theorem State.finish_counts (op : Byte) (e : Ending) : (s.finish op e).counts = s.counts := rfl
@[simp] theorem State.finish_results (op : Byte) (e : Ending) : (s.finish op e).results = s.results := rfl
@[simp] theorem State.finish_conv (op : Byte) (e : Ending) : (s.finish op e).conv = s.conv := rfl
@[simp] theorem State.finish_symtab (op : Byte) (e : Ending) : (s.finish op e).symtab = s.symtab := rfl
@[simp] theorem State.finish_work (op : Byte) (e : Ending) : (s.finish op e).work = s.work := rfl
@[simp] theorem State.finish_sequencer (op : Byte) (e : Ending) : (s.finish op e).sequencer = .idle := rfl
@[simp] theorem State.finish_pkt (op : Byte) (e : Ending) : (s.finish op e).pkt = s.pkt := rfl
@[simp] theorem State.finish_out (op : Byte) (e : Ending) : (s.finish op e).out = s.out := rfl
@[simp] theorem State.finish_tree (op : Byte) (e : Ending) : (s.finish op e).tree = s.tree := rfl
@[simp] theorem State.finish_table (op : Byte) (e : Ending) : (s.finish op e).table = s.table := rfl
@[simp] theorem State.finish_rst (op : Byte) (e : Ending) : (s.finish op e).rst = s.rst := rfl
@[simp] theorem State.finish_events (op : Byte) (e : Ending) : (s.finish op e).events = s.events := rfl
@[simp] theorem State.finish_resp (op : Byte) (e : Ending) : (s.finish op e).resp = s.resp := rfl
@[simp] theorem State.finish_draws (op : Byte) (e : Ending) : (s.finish op e).draws = s.draws := rfl

@[simp] theorem State.latchHeader_params (h : Header) (tab : Vector SymEntry 12) : (s.latchHeader h tab).params = s.params := rfl
@[simp] theorem State.latchHeader_irqEn (h : Header) (tab : Vector SymEntry 12) : (s.latchHeader h tab).irqEn = s.irqEn := rfl
@[simp] theorem State.latchHeader_status (h : Header) (tab : Vector SymEntry 12) : (s.latchHeader h tab).status = { s.status with phase := .parsed } := rfl
@[simp] theorem State.latchHeader_pktLen (h : Header) (tab : Vector SymEntry 12) : (s.latchHeader h tab).pktLen = s.pktLen := rfl
@[simp] theorem State.latchHeader_convLimit (h : Header) (tab : Vector SymEntry 12) : (s.latchHeader h tab).convLimit = s.convLimit := rfl
@[simp] theorem State.latchHeader_errInfo (h : Header) (tab : Vector SymEntry 12) : (s.latchHeader h tab).errInfo = s.errInfo := rfl
@[simp] theorem State.latchHeader_hdr (h : Header) (tab : Vector SymEntry 12) : (s.latchHeader h tab).hdr = h := rfl
@[simp] theorem State.latchHeader_counts (h : Header) (tab : Vector SymEntry 12) : (s.latchHeader h tab).counts = { nodes := 0, states := 0, maxCodeLen := 0 } := rfl
@[simp] theorem State.latchHeader_results (h : Header) (tab : Vector SymEntry 12) : (s.latchHeader h tab).results = s.results := rfl
@[simp] theorem State.latchHeader_conv (h : Header) (tab : Vector SymEntry 12) : (s.latchHeader h tab).conv = s.conv := rfl
@[simp] theorem State.latchHeader_symtab (h : Header) (tab : Vector SymEntry 12) : (s.latchHeader h tab).symtab = tab := rfl
@[simp] theorem State.latchHeader_work (h : Header) (tab : Vector SymEntry 12) : (s.latchHeader h tab).work = s.work := rfl
@[simp] theorem State.latchHeader_sequencer (h : Header) (tab : Vector SymEntry 12) : (s.latchHeader h tab).sequencer = s.sequencer := rfl
@[simp] theorem State.latchHeader_pkt (h : Header) (tab : Vector SymEntry 12) : (s.latchHeader h tab).pkt = s.pkt := rfl
@[simp] theorem State.latchHeader_out (h : Header) (tab : Vector SymEntry 12) : (s.latchHeader h tab).out = s.out := rfl
@[simp] theorem State.latchHeader_tree (h : Header) (tab : Vector SymEntry 12) : (s.latchHeader h tab).tree = s.tree := rfl
@[simp] theorem State.latchHeader_table (h : Header) (tab : Vector SymEntry 12) : (s.latchHeader h tab).table = s.table := rfl
@[simp] theorem State.latchHeader_rst (h : Header) (tab : Vector SymEntry 12) : (s.latchHeader h tab).rst = s.rst := rfl
@[simp] theorem State.latchHeader_events (h : Header) (tab : Vector SymEntry 12) : (s.latchHeader h tab).events = s.events := rfl
@[simp] theorem State.latchHeader_resp (h : Header) (tab : Vector SymEntry 12) : (s.latchHeader h tab).resp = s.resp := rfl
@[simp] theorem State.latchHeader_draws (h : Header) (tab : Vector SymEntry 12) : (s.latchHeader h tab).draws = s.draws := rfl

@[simp] theorem State.dropHeader_params : s.dropHeader.params = s.params := rfl
@[simp] theorem State.dropHeader_irqEn : s.dropHeader.irqEn = s.irqEn := rfl
@[simp] theorem State.dropHeader_status : s.dropHeader.status = { s.status with phase := .empty } := rfl
@[simp] theorem State.dropHeader_pktLen : s.dropHeader.pktLen = s.pktLen := rfl
@[simp] theorem State.dropHeader_convLimit : s.dropHeader.convLimit = s.convLimit := rfl
@[simp] theorem State.dropHeader_errInfo : s.dropHeader.errInfo = s.errInfo := rfl
@[simp] theorem State.dropHeader_hdr : s.dropHeader.hdr = State.reset.hdr := rfl
@[simp] theorem State.dropHeader_counts : s.dropHeader.counts = State.reset.counts := rfl
@[simp] theorem State.dropHeader_results : s.dropHeader.results = s.results := rfl
@[simp] theorem State.dropHeader_conv : s.dropHeader.conv = s.conv := rfl
@[simp] theorem State.dropHeader_symtab : s.dropHeader.symtab = freeSymtab s.draws := rfl
@[simp] theorem State.dropHeader_work : s.dropHeader.work = s.work := rfl
@[simp] theorem State.dropHeader_sequencer : s.dropHeader.sequencer = s.sequencer := rfl
@[simp] theorem State.dropHeader_pkt : s.dropHeader.pkt = s.pkt := rfl
@[simp] theorem State.dropHeader_out : s.dropHeader.out = s.out := rfl
@[simp] theorem State.dropHeader_tree : s.dropHeader.tree = s.tree := rfl
@[simp] theorem State.dropHeader_table : s.dropHeader.table = s.table := rfl
@[simp] theorem State.dropHeader_rst : s.dropHeader.rst = s.rst := rfl
@[simp] theorem State.dropHeader_events : s.dropHeader.events = s.events := rfl
@[simp] theorem State.dropHeader_resp : s.dropHeader.resp = s.resp := rfl
@[simp] theorem State.dropHeader_draws : s.dropHeader.draws = s.draws + 1 := rfl

@[simp] theorem State.clearDerived_params : s.clearDerived.params = s.params := rfl
@[simp] theorem State.clearDerived_irqEn : s.clearDerived.irqEn = s.irqEn := rfl
@[simp] theorem State.clearDerived_status : s.clearDerived.status = { s.status with phase := .empty } := rfl
@[simp] theorem State.clearDerived_pktLen : s.clearDerived.pktLen = s.pktLen := rfl
@[simp] theorem State.clearDerived_convLimit : s.clearDerived.convLimit = s.convLimit := rfl
@[simp] theorem State.clearDerived_errInfo : s.clearDerived.errInfo = s.errInfo := rfl
@[simp] theorem State.clearDerived_hdr : s.clearDerived.hdr = State.reset.hdr := rfl
@[simp] theorem State.clearDerived_counts : s.clearDerived.counts = State.reset.counts := rfl
@[simp] theorem State.clearDerived_results : s.clearDerived.results = State.reset.results := rfl
@[simp] theorem State.clearDerived_conv : s.clearDerived.conv = State.reset.conv := rfl
@[simp] theorem State.clearDerived_symtab : s.clearDerived.symtab = freeSymtab s.draws := rfl
@[simp] theorem State.clearDerived_work : s.clearDerived.work = s.work := rfl
@[simp] theorem State.clearDerived_sequencer : s.clearDerived.sequencer = s.sequencer := rfl
@[simp] theorem State.clearDerived_pkt : s.clearDerived.pkt = s.pkt := rfl
@[simp] theorem State.clearDerived_out : s.clearDerived.out = s.out := rfl
@[simp] theorem State.clearDerived_tree : s.clearDerived.tree = s.tree := rfl
@[simp] theorem State.clearDerived_table : s.clearDerived.table = s.table := rfl
@[simp] theorem State.clearDerived_rst : s.clearDerived.rst = s.rst := rfl
@[simp] theorem State.clearDerived_events : s.clearDerived.events = s.events := rfl
@[simp] theorem State.clearDerived_resp : s.clearDerived.resp = s.resp := rfl
@[simp] theorem State.clearDerived_draws : s.clearDerived.draws = s.draws + 1 := rfl

@[simp] theorem State.setWork_params (w : Workspace) : (s.setWork w).params = s.params := rfl
@[simp] theorem State.setWork_irqEn (w : Workspace) : (s.setWork w).irqEn = s.irqEn := rfl
@[simp] theorem State.setWork_status (w : Workspace) : (s.setWork w).status = s.status := rfl
@[simp] theorem State.setWork_pktLen (w : Workspace) : (s.setWork w).pktLen = s.pktLen := rfl
@[simp] theorem State.setWork_convLimit (w : Workspace) : (s.setWork w).convLimit = s.convLimit := rfl
@[simp] theorem State.setWork_errInfo (w : Workspace) : (s.setWork w).errInfo = s.errInfo := rfl
@[simp] theorem State.setWork_hdr (w : Workspace) : (s.setWork w).hdr = s.hdr := rfl
@[simp] theorem State.setWork_counts (w : Workspace) : (s.setWork w).counts = s.counts := rfl
@[simp] theorem State.setWork_results (w : Workspace) : (s.setWork w).results = s.results := rfl
@[simp] theorem State.setWork_conv (w : Workspace) : (s.setWork w).conv = s.conv := rfl
@[simp] theorem State.setWork_symtab (w : Workspace) : (s.setWork w).symtab = s.symtab := rfl
@[simp] theorem State.setWork_work (w : Workspace) : (s.setWork w).work = w := rfl
@[simp] theorem State.setWork_sequencer (w : Workspace) : (s.setWork w).sequencer = s.sequencer := rfl
@[simp] theorem State.setWork_pkt (w : Workspace) : (s.setWork w).pkt = s.pkt := rfl
@[simp] theorem State.setWork_out (w : Workspace) : (s.setWork w).out = s.out := rfl
@[simp] theorem State.setWork_tree (w : Workspace) : (s.setWork w).tree = s.tree := rfl
@[simp] theorem State.setWork_table (w : Workspace) : (s.setWork w).table = s.table := rfl
@[simp] theorem State.setWork_rst (w : Workspace) : (s.setWork w).rst = s.rst := rfl
@[simp] theorem State.setWork_events (w : Workspace) : (s.setWork w).events = s.events := rfl
@[simp] theorem State.setWork_resp (w : Workspace) : (s.setWork w).resp = s.resp := rfl
@[simp] theorem State.setWork_draws (w : Workspace) : (s.setWork w).draws = s.draws := rfl

@[simp] theorem State.storeTree_params (bs : List Byte) (c : TreeCounts) : (s.storeTree bs c).params = s.params := rfl
@[simp] theorem State.storeTree_irqEn (bs : List Byte) (c : TreeCounts) : (s.storeTree bs c).irqEn = s.irqEn := rfl
@[simp] theorem State.storeTree_status (bs : List Byte) (c : TreeCounts) : (s.storeTree bs c).status = { s.status with phase := .tree } := rfl
@[simp] theorem State.storeTree_pktLen (bs : List Byte) (c : TreeCounts) : (s.storeTree bs c).pktLen = s.pktLen := rfl
@[simp] theorem State.storeTree_convLimit (bs : List Byte) (c : TreeCounts) : (s.storeTree bs c).convLimit = s.convLimit := rfl
@[simp] theorem State.storeTree_errInfo (bs : List Byte) (c : TreeCounts) : (s.storeTree bs c).errInfo = s.errInfo := rfl
@[simp] theorem State.storeTree_hdr (bs : List Byte) (c : TreeCounts) : (s.storeTree bs c).hdr = s.hdr := rfl
@[simp] theorem State.storeTree_counts (bs : List Byte) (c : TreeCounts) : (s.storeTree bs c).counts = c := rfl
@[simp] theorem State.storeTree_results (bs : List Byte) (c : TreeCounts) : (s.storeTree bs c).results = s.results := rfl
@[simp] theorem State.storeTree_conv (bs : List Byte) (c : TreeCounts) : (s.storeTree bs c).conv = s.conv := rfl
@[simp] theorem State.storeTree_symtab (bs : List Byte) (c : TreeCounts) : (s.storeTree bs c).symtab = s.symtab := rfl
@[simp] theorem State.storeTree_work (bs : List Byte) (c : TreeCounts) : (s.storeTree bs c).work = s.work := rfl
@[simp] theorem State.storeTree_sequencer (bs : List Byte) (c : TreeCounts) : (s.storeTree bs c).sequencer = s.sequencer := rfl
@[simp] theorem State.storeTree_pkt (bs : List Byte) (c : TreeCounts) : (s.storeTree bs c).pkt = s.pkt := rfl
@[simp] theorem State.storeTree_out (bs : List Byte) (c : TreeCounts) : (s.storeTree bs c).out = s.out := rfl
@[simp] theorem State.storeTree_tree (bs : List Byte) (c : TreeCounts) : (s.storeTree bs c).tree = s.tree.put 0 bs := rfl
@[simp] theorem State.storeTree_table (bs : List Byte) (c : TreeCounts) : (s.storeTree bs c).table = s.table := rfl
@[simp] theorem State.storeTree_rst (bs : List Byte) (c : TreeCounts) : (s.storeTree bs c).rst = s.rst := rfl
@[simp] theorem State.storeTree_events (bs : List Byte) (c : TreeCounts) : (s.storeTree bs c).events = s.events := rfl
@[simp] theorem State.storeTree_resp (bs : List Byte) (c : TreeCounts) : (s.storeTree bs c).resp = s.resp := rfl
@[simp] theorem State.storeTree_draws (bs : List Byte) (c : TreeCounts) : (s.storeTree bs c).draws = s.draws := rfl

@[simp] theorem State.storeTables_params (bs : List Byte) : (s.storeTables bs).params = s.params := rfl
@[simp] theorem State.storeTables_irqEn (bs : List Byte) : (s.storeTables bs).irqEn = s.irqEn := rfl
@[simp] theorem State.storeTables_status (bs : List Byte) : (s.storeTables bs).status = { s.status with phase := .tables } := rfl
@[simp] theorem State.storeTables_pktLen (bs : List Byte) : (s.storeTables bs).pktLen = s.pktLen := rfl
@[simp] theorem State.storeTables_convLimit (bs : List Byte) : (s.storeTables bs).convLimit = s.convLimit := rfl
@[simp] theorem State.storeTables_errInfo (bs : List Byte) : (s.storeTables bs).errInfo = s.errInfo := rfl
@[simp] theorem State.storeTables_hdr (bs : List Byte) : (s.storeTables bs).hdr = s.hdr := rfl
@[simp] theorem State.storeTables_counts (bs : List Byte) : (s.storeTables bs).counts = s.counts := rfl
@[simp] theorem State.storeTables_results (bs : List Byte) : (s.storeTables bs).results = s.results := rfl
@[simp] theorem State.storeTables_conv (bs : List Byte) : (s.storeTables bs).conv = s.conv := rfl
@[simp] theorem State.storeTables_symtab (bs : List Byte) : (s.storeTables bs).symtab = s.symtab := rfl
@[simp] theorem State.storeTables_work (bs : List Byte) : (s.storeTables bs).work = s.work := rfl
@[simp] theorem State.storeTables_sequencer (bs : List Byte) : (s.storeTables bs).sequencer = s.sequencer := rfl
@[simp] theorem State.storeTables_pkt (bs : List Byte) : (s.storeTables bs).pkt = s.pkt := rfl
@[simp] theorem State.storeTables_out (bs : List Byte) : (s.storeTables bs).out = s.out := rfl
@[simp] theorem State.storeTables_tree (bs : List Byte) : (s.storeTables bs).tree = s.tree := rfl
@[simp] theorem State.storeTables_table (bs : List Byte) : (s.storeTables bs).table = s.table.put 0 bs := rfl
@[simp] theorem State.storeTables_rst (bs : List Byte) : (s.storeTables bs).rst = s.rst := rfl
@[simp] theorem State.storeTables_events (bs : List Byte) : (s.storeTables bs).events = s.events := rfl
@[simp] theorem State.storeTables_resp (bs : List Byte) : (s.storeTables bs).resp = s.resp := rfl
@[simp] theorem State.storeTables_draws (bs : List Byte) : (s.storeTables bs).draws = s.draws := rfl

@[simp] theorem State.storeOrder_params (bs : List Byte) (n : Word) : (s.storeOrder bs n).params = s.params := rfl
@[simp] theorem State.storeOrder_irqEn (bs : List Byte) (n : Word) : (s.storeOrder bs n).irqEn = s.irqEn := rfl
@[simp] theorem State.storeOrder_status (bs : List Byte) (n : Word) : (s.storeOrder bs n).status = s.status := rfl
@[simp] theorem State.storeOrder_pktLen (bs : List Byte) (n : Word) : (s.storeOrder bs n).pktLen = s.pktLen := rfl
@[simp] theorem State.storeOrder_convLimit (bs : List Byte) (n : Word) : (s.storeOrder bs n).convLimit = s.convLimit := rfl
@[simp] theorem State.storeOrder_errInfo (bs : List Byte) (n : Word) : (s.storeOrder bs n).errInfo = s.errInfo := rfl
@[simp] theorem State.storeOrder_hdr (bs : List Byte) (n : Word) : (s.storeOrder bs n).hdr = s.hdr := rfl
@[simp] theorem State.storeOrder_counts (bs : List Byte) (n : Word) : (s.storeOrder bs n).counts = s.counts := rfl
@[simp] theorem State.storeOrder_results (bs : List Byte) (n : Word) : (s.storeOrder bs n).results = { s.results with outCount := n } := rfl
@[simp] theorem State.storeOrder_conv (bs : List Byte) (n : Word) : (s.storeOrder bs n).conv = s.conv := rfl
@[simp] theorem State.storeOrder_symtab (bs : List Byte) (n : Word) : (s.storeOrder bs n).symtab = s.symtab := rfl
@[simp] theorem State.storeOrder_work (bs : List Byte) (n : Word) : (s.storeOrder bs n).work = s.work := rfl
@[simp] theorem State.storeOrder_sequencer (bs : List Byte) (n : Word) : (s.storeOrder bs n).sequencer = s.sequencer := rfl
@[simp] theorem State.storeOrder_pkt (bs : List Byte) (n : Word) : (s.storeOrder bs n).pkt = s.pkt := rfl
@[simp] theorem State.storeOrder_out (bs : List Byte) (n : Word) : (s.storeOrder bs n).out = s.out.put 0 bs := rfl
@[simp] theorem State.storeOrder_tree (bs : List Byte) (n : Word) : (s.storeOrder bs n).tree = s.tree := rfl
@[simp] theorem State.storeOrder_table (bs : List Byte) (n : Word) : (s.storeOrder bs n).table = s.table := rfl
@[simp] theorem State.storeOrder_rst (bs : List Byte) (n : Word) : (s.storeOrder bs n).rst = s.rst := rfl
@[simp] theorem State.storeOrder_events (bs : List Byte) (n : Word) : (s.storeOrder bs n).events = s.events := rfl
@[simp] theorem State.storeOrder_resp (bs : List Byte) (n : Word) : (s.storeOrder bs n).resp = s.resp := rfl
@[simp] theorem State.storeOrder_draws (bs : List Byte) (n : Word) : (s.storeOrder bs n).draws = s.draws := rfl

@[simp] theorem State.storeDecoded_params (bs : List Byte) (r : Results) : (s.storeDecoded bs r).params = s.params := rfl
@[simp] theorem State.storeDecoded_irqEn (bs : List Byte) (r : Results) : (s.storeDecoded bs r).irqEn = s.irqEn := rfl
@[simp] theorem State.storeDecoded_status (bs : List Byte) (r : Results) : (s.storeDecoded bs r).status = s.status := rfl
@[simp] theorem State.storeDecoded_pktLen (bs : List Byte) (r : Results) : (s.storeDecoded bs r).pktLen = s.pktLen := rfl
@[simp] theorem State.storeDecoded_convLimit (bs : List Byte) (r : Results) : (s.storeDecoded bs r).convLimit = s.convLimit := rfl
@[simp] theorem State.storeDecoded_errInfo (bs : List Byte) (r : Results) : (s.storeDecoded bs r).errInfo = s.errInfo := rfl
@[simp] theorem State.storeDecoded_hdr (bs : List Byte) (r : Results) : (s.storeDecoded bs r).hdr = s.hdr := rfl
@[simp] theorem State.storeDecoded_counts (bs : List Byte) (r : Results) : (s.storeDecoded bs r).counts = s.counts := rfl
@[simp] theorem State.storeDecoded_results (bs : List Byte) (r : Results) : (s.storeDecoded bs r).results = r := rfl
@[simp] theorem State.storeDecoded_conv (bs : List Byte) (r : Results) : (s.storeDecoded bs r).conv = s.conv := rfl
@[simp] theorem State.storeDecoded_symtab (bs : List Byte) (r : Results) : (s.storeDecoded bs r).symtab = s.symtab := rfl
@[simp] theorem State.storeDecoded_work (bs : List Byte) (r : Results) : (s.storeDecoded bs r).work = s.work := rfl
@[simp] theorem State.storeDecoded_sequencer (bs : List Byte) (r : Results) : (s.storeDecoded bs r).sequencer = s.sequencer := rfl
@[simp] theorem State.storeDecoded_pkt (bs : List Byte) (r : Results) : (s.storeDecoded bs r).pkt = s.pkt := rfl
@[simp] theorem State.storeDecoded_out (bs : List Byte) (r : Results) : (s.storeDecoded bs r).out = s.out.put 0 bs := rfl
@[simp] theorem State.storeDecoded_tree (bs : List Byte) (r : Results) : (s.storeDecoded bs r).tree = s.tree := rfl
@[simp] theorem State.storeDecoded_table (bs : List Byte) (r : Results) : (s.storeDecoded bs r).table = s.table := rfl
@[simp] theorem State.storeDecoded_rst (bs : List Byte) (r : Results) : (s.storeDecoded bs r).rst = s.rst := rfl
@[simp] theorem State.storeDecoded_events (bs : List Byte) (r : Results) : (s.storeDecoded bs r).events = s.events := rfl
@[simp] theorem State.storeDecoded_resp (bs : List Byte) (r : Results) : (s.storeDecoded bs r).resp = s.resp := rfl
@[simp] theorem State.storeDecoded_draws (bs : List Byte) (r : Results) : (s.storeDecoded bs r).draws = s.draws := rfl

@[simp] theorem State.voidOutput_params (d : Nat) : (s.voidOutput d).params = s.params := rfl
@[simp] theorem State.voidOutput_irqEn (d : Nat) : (s.voidOutput d).irqEn = s.irqEn := rfl
@[simp] theorem State.voidOutput_status (d : Nat) : (s.voidOutput d).status = s.status := rfl
@[simp] theorem State.voidOutput_pktLen (d : Nat) : (s.voidOutput d).pktLen = s.pktLen := rfl
@[simp] theorem State.voidOutput_convLimit (d : Nat) : (s.voidOutput d).convLimit = s.convLimit := rfl
@[simp] theorem State.voidOutput_errInfo (d : Nat) : (s.voidOutput d).errInfo = s.errInfo := rfl
@[simp] theorem State.voidOutput_hdr (d : Nat) : (s.voidOutput d).hdr = s.hdr := rfl
@[simp] theorem State.voidOutput_counts (d : Nat) : (s.voidOutput d).counts = s.counts := rfl
@[simp] theorem State.voidOutput_results (d : Nat) : (s.voidOutput d).results = State.reset.results := rfl
@[simp] theorem State.voidOutput_conv (d : Nat) : (s.voidOutput d).conv = s.conv := rfl
@[simp] theorem State.voidOutput_symtab (d : Nat) : (s.voidOutput d).symtab = s.symtab := rfl
@[simp] theorem State.voidOutput_work (d : Nat) : (s.voidOutput d).work = s.work := rfl
@[simp] theorem State.voidOutput_sequencer (d : Nat) : (s.voidOutput d).sequencer = s.sequencer := rfl
@[simp] theorem State.voidOutput_pkt (d : Nat) : (s.voidOutput d).pkt = s.pkt := rfl
@[simp] theorem State.voidOutput_out (d : Nat) : (s.voidOutput d).out = s.out.put 0 (freeBytes s.draws d) := rfl
@[simp] theorem State.voidOutput_tree (d : Nat) : (s.voidOutput d).tree = s.tree := rfl
@[simp] theorem State.voidOutput_table (d : Nat) : (s.voidOutput d).table = s.table := rfl
@[simp] theorem State.voidOutput_rst (d : Nat) : (s.voidOutput d).rst = s.rst := rfl
@[simp] theorem State.voidOutput_events (d : Nat) : (s.voidOutput d).events = s.events := rfl
@[simp] theorem State.voidOutput_resp (d : Nat) : (s.voidOutput d).resp = s.resp := rfl
@[simp] theorem State.voidOutput_draws (d : Nat) : (s.voidOutput d).draws = s.draws + 1 := rfl

@[simp] theorem State.setConv_params (c : Convergence) : (s.setConv c).params = s.params := rfl
@[simp] theorem State.setConv_irqEn (c : Convergence) : (s.setConv c).irqEn = s.irqEn := rfl
@[simp] theorem State.setConv_status (c : Convergence) : (s.setConv c).status = s.status := rfl
@[simp] theorem State.setConv_pktLen (c : Convergence) : (s.setConv c).pktLen = s.pktLen := rfl
@[simp] theorem State.setConv_convLimit (c : Convergence) : (s.setConv c).convLimit = s.convLimit := rfl
@[simp] theorem State.setConv_errInfo (c : Convergence) : (s.setConv c).errInfo = s.errInfo := rfl
@[simp] theorem State.setConv_hdr (c : Convergence) : (s.setConv c).hdr = s.hdr := rfl
@[simp] theorem State.setConv_counts (c : Convergence) : (s.setConv c).counts = s.counts := rfl
@[simp] theorem State.setConv_results (c : Convergence) : (s.setConv c).results = s.results := rfl
@[simp] theorem State.setConv_conv (c : Convergence) : (s.setConv c).conv = c := rfl
@[simp] theorem State.setConv_symtab (c : Convergence) : (s.setConv c).symtab = s.symtab := rfl
@[simp] theorem State.setConv_work (c : Convergence) : (s.setConv c).work = s.work := rfl
@[simp] theorem State.setConv_sequencer (c : Convergence) : (s.setConv c).sequencer = s.sequencer := rfl
@[simp] theorem State.setConv_pkt (c : Convergence) : (s.setConv c).pkt = s.pkt := rfl
@[simp] theorem State.setConv_out (c : Convergence) : (s.setConv c).out = s.out := rfl
@[simp] theorem State.setConv_tree (c : Convergence) : (s.setConv c).tree = s.tree := rfl
@[simp] theorem State.setConv_table (c : Convergence) : (s.setConv c).table = s.table := rfl
@[simp] theorem State.setConv_rst (c : Convergence) : (s.setConv c).rst = s.rst := rfl
@[simp] theorem State.setConv_events (c : Convergence) : (s.setConv c).events = s.events := rfl
@[simp] theorem State.setConv_resp (c : Convergence) : (s.setConv c).resp = s.resp := rfl
@[simp] theorem State.setConv_draws (c : Convergence) : (s.setConv c).draws = s.draws := rfl

@[simp] theorem State.hostPacket_params (a : Nat) (bs : List Byte) : (s.hostPacket a bs).params = s.params := rfl
@[simp] theorem State.hostPacket_irqEn (a : Nat) (bs : List Byte) : (s.hostPacket a bs).irqEn = s.irqEn := rfl
@[simp] theorem State.hostPacket_status (a : Nat) (bs : List Byte) : (s.hostPacket a bs).status = { s.status with phase := .empty } := rfl
@[simp] theorem State.hostPacket_pktLen (a : Nat) (bs : List Byte) : (s.hostPacket a bs).pktLen = s.pktLen := rfl
@[simp] theorem State.hostPacket_convLimit (a : Nat) (bs : List Byte) : (s.hostPacket a bs).convLimit = s.convLimit := rfl
@[simp] theorem State.hostPacket_errInfo (a : Nat) (bs : List Byte) : (s.hostPacket a bs).errInfo = s.errInfo := rfl
@[simp] theorem State.hostPacket_hdr (a : Nat) (bs : List Byte) : (s.hostPacket a bs).hdr = s.hdr := rfl
@[simp] theorem State.hostPacket_counts (a : Nat) (bs : List Byte) : (s.hostPacket a bs).counts = s.counts := rfl
@[simp] theorem State.hostPacket_results (a : Nat) (bs : List Byte) : (s.hostPacket a bs).results = s.results := rfl
@[simp] theorem State.hostPacket_conv (a : Nat) (bs : List Byte) : (s.hostPacket a bs).conv = s.conv := rfl
@[simp] theorem State.hostPacket_symtab (a : Nat) (bs : List Byte) : (s.hostPacket a bs).symtab = s.symtab := rfl
@[simp] theorem State.hostPacket_work (a : Nat) (bs : List Byte) : (s.hostPacket a bs).work = s.work := rfl
@[simp] theorem State.hostPacket_sequencer (a : Nat) (bs : List Byte) : (s.hostPacket a bs).sequencer = s.sequencer := rfl
@[simp] theorem State.hostPacket_pkt (a : Nat) (bs : List Byte) : (s.hostPacket a bs).pkt = s.pkt.put a bs := rfl
@[simp] theorem State.hostPacket_out (a : Nat) (bs : List Byte) : (s.hostPacket a bs).out = s.out := rfl
@[simp] theorem State.hostPacket_tree (a : Nat) (bs : List Byte) : (s.hostPacket a bs).tree = s.tree := rfl
@[simp] theorem State.hostPacket_table (a : Nat) (bs : List Byte) : (s.hostPacket a bs).table = s.table := rfl
@[simp] theorem State.hostPacket_rst (a : Nat) (bs : List Byte) : (s.hostPacket a bs).rst = s.rst := rfl
@[simp] theorem State.hostPacket_events (a : Nat) (bs : List Byte) : (s.hostPacket a bs).events = s.events := rfl
@[simp] theorem State.hostPacket_resp (a : Nat) (bs : List Byte) : (s.hostPacket a bs).resp = s.resp := rfl
@[simp] theorem State.hostPacket_draws (a : Nat) (bs : List Byte) : (s.hostPacket a bs).draws = s.draws := rfl

@[simp] theorem State.hostOutput_params (a : Nat) (bs : List Byte) : (s.hostOutput a bs).params = s.params := rfl
@[simp] theorem State.hostOutput_irqEn (a : Nat) (bs : List Byte) : (s.hostOutput a bs).irqEn = s.irqEn := rfl
@[simp] theorem State.hostOutput_status (a : Nat) (bs : List Byte) : (s.hostOutput a bs).status = s.status := rfl
@[simp] theorem State.hostOutput_pktLen (a : Nat) (bs : List Byte) : (s.hostOutput a bs).pktLen = s.pktLen := rfl
@[simp] theorem State.hostOutput_convLimit (a : Nat) (bs : List Byte) : (s.hostOutput a bs).convLimit = s.convLimit := rfl
@[simp] theorem State.hostOutput_errInfo (a : Nat) (bs : List Byte) : (s.hostOutput a bs).errInfo = s.errInfo := rfl
@[simp] theorem State.hostOutput_hdr (a : Nat) (bs : List Byte) : (s.hostOutput a bs).hdr = s.hdr := rfl
@[simp] theorem State.hostOutput_counts (a : Nat) (bs : List Byte) : (s.hostOutput a bs).counts = s.counts := rfl
@[simp] theorem State.hostOutput_results (a : Nat) (bs : List Byte) : (s.hostOutput a bs).results = s.results := rfl
@[simp] theorem State.hostOutput_conv (a : Nat) (bs : List Byte) : (s.hostOutput a bs).conv = s.conv := rfl
@[simp] theorem State.hostOutput_symtab (a : Nat) (bs : List Byte) : (s.hostOutput a bs).symtab = s.symtab := rfl
@[simp] theorem State.hostOutput_work (a : Nat) (bs : List Byte) : (s.hostOutput a bs).work = s.work := rfl
@[simp] theorem State.hostOutput_sequencer (a : Nat) (bs : List Byte) : (s.hostOutput a bs).sequencer = s.sequencer := rfl
@[simp] theorem State.hostOutput_pkt (a : Nat) (bs : List Byte) : (s.hostOutput a bs).pkt = s.pkt := rfl
@[simp] theorem State.hostOutput_out (a : Nat) (bs : List Byte) : (s.hostOutput a bs).out = s.out.put a bs := rfl
@[simp] theorem State.hostOutput_tree (a : Nat) (bs : List Byte) : (s.hostOutput a bs).tree = s.tree := rfl
@[simp] theorem State.hostOutput_table (a : Nat) (bs : List Byte) : (s.hostOutput a bs).table = s.table := rfl
@[simp] theorem State.hostOutput_rst (a : Nat) (bs : List Byte) : (s.hostOutput a bs).rst = s.rst := rfl
@[simp] theorem State.hostOutput_events (a : Nat) (bs : List Byte) : (s.hostOutput a bs).events = s.events := rfl
@[simp] theorem State.hostOutput_resp (a : Nat) (bs : List Byte) : (s.hostOutput a bs).resp = s.resp := rfl
@[simp] theorem State.hostOutput_draws (a : Nat) (bs : List Byte) : (s.hostOutput a bs).draws = s.draws := rfl

@[simp] theorem State.setPktLen_params (v : Word) : (s.setPktLen v).params = s.params := rfl
@[simp] theorem State.setPktLen_irqEn (v : Word) : (s.setPktLen v).irqEn = s.irqEn := rfl
@[simp] theorem State.setPktLen_status (v : Word) : (s.setPktLen v).status = { s.status with phase := .empty } := rfl
@[simp] theorem State.setPktLen_pktLen (v : Word) : (s.setPktLen v).pktLen = BitVec.ofNat 32 (min v.toNat s.params.pktBytes) := rfl
@[simp] theorem State.setPktLen_convLimit (v : Word) : (s.setPktLen v).convLimit = s.convLimit := rfl
@[simp] theorem State.setPktLen_errInfo (v : Word) : (s.setPktLen v).errInfo = s.errInfo := rfl
@[simp] theorem State.setPktLen_hdr (v : Word) : (s.setPktLen v).hdr = s.hdr := rfl
@[simp] theorem State.setPktLen_counts (v : Word) : (s.setPktLen v).counts = s.counts := rfl
@[simp] theorem State.setPktLen_results (v : Word) : (s.setPktLen v).results = s.results := rfl
@[simp] theorem State.setPktLen_conv (v : Word) : (s.setPktLen v).conv = s.conv := rfl
@[simp] theorem State.setPktLen_symtab (v : Word) : (s.setPktLen v).symtab = s.symtab := rfl
@[simp] theorem State.setPktLen_work (v : Word) : (s.setPktLen v).work = s.work := rfl
@[simp] theorem State.setPktLen_sequencer (v : Word) : (s.setPktLen v).sequencer = s.sequencer := rfl
@[simp] theorem State.setPktLen_pkt (v : Word) : (s.setPktLen v).pkt = s.pkt := rfl
@[simp] theorem State.setPktLen_out (v : Word) : (s.setPktLen v).out = s.out := rfl
@[simp] theorem State.setPktLen_tree (v : Word) : (s.setPktLen v).tree = s.tree := rfl
@[simp] theorem State.setPktLen_table (v : Word) : (s.setPktLen v).table = s.table := rfl
@[simp] theorem State.setPktLen_rst (v : Word) : (s.setPktLen v).rst = s.rst := rfl
@[simp] theorem State.setPktLen_events (v : Word) : (s.setPktLen v).events = s.events := rfl
@[simp] theorem State.setPktLen_resp (v : Word) : (s.setPktLen v).resp = s.resp := rfl
@[simp] theorem State.setPktLen_draws (v : Word) : (s.setPktLen v).draws = s.draws := rfl

@[simp] theorem State.setConvLimit_params (v : Word) : (s.setConvLimit v).params = s.params := rfl
@[simp] theorem State.setConvLimit_irqEn (v : Word) : (s.setConvLimit v).irqEn = s.irqEn := rfl
@[simp] theorem State.setConvLimit_status (v : Word) : (s.setConvLimit v).status = s.status := rfl
@[simp] theorem State.setConvLimit_pktLen (v : Word) : (s.setConvLimit v).pktLen = s.pktLen := rfl
@[simp] theorem State.setConvLimit_convLimit (v : Word) : (s.setConvLimit v).convLimit = v := rfl
@[simp] theorem State.setConvLimit_errInfo (v : Word) : (s.setConvLimit v).errInfo = s.errInfo := rfl
@[simp] theorem State.setConvLimit_hdr (v : Word) : (s.setConvLimit v).hdr = s.hdr := rfl
@[simp] theorem State.setConvLimit_counts (v : Word) : (s.setConvLimit v).counts = s.counts := rfl
@[simp] theorem State.setConvLimit_results (v : Word) : (s.setConvLimit v).results = s.results := rfl
@[simp] theorem State.setConvLimit_conv (v : Word) : (s.setConvLimit v).conv = s.conv := rfl
@[simp] theorem State.setConvLimit_symtab (v : Word) : (s.setConvLimit v).symtab = s.symtab := rfl
@[simp] theorem State.setConvLimit_work (v : Word) : (s.setConvLimit v).work = s.work := rfl
@[simp] theorem State.setConvLimit_sequencer (v : Word) : (s.setConvLimit v).sequencer = s.sequencer := rfl
@[simp] theorem State.setConvLimit_pkt (v : Word) : (s.setConvLimit v).pkt = s.pkt := rfl
@[simp] theorem State.setConvLimit_out (v : Word) : (s.setConvLimit v).out = s.out := rfl
@[simp] theorem State.setConvLimit_tree (v : Word) : (s.setConvLimit v).tree = s.tree := rfl
@[simp] theorem State.setConvLimit_table (v : Word) : (s.setConvLimit v).table = s.table := rfl
@[simp] theorem State.setConvLimit_rst (v : Word) : (s.setConvLimit v).rst = s.rst := rfl
@[simp] theorem State.setConvLimit_events (v : Word) : (s.setConvLimit v).events = s.events := rfl
@[simp] theorem State.setConvLimit_resp (v : Word) : (s.setConvLimit v).resp = s.resp := rfl
@[simp] theorem State.setConvLimit_draws (v : Word) : (s.setConvLimit v).draws = s.draws := rfl

@[simp] theorem State.setIrqEn_params (b : Bool) : (s.setIrqEn b).params = s.params := rfl
@[simp] theorem State.setIrqEn_irqEn (b : Bool) : (s.setIrqEn b).irqEn = b := rfl
@[simp] theorem State.setIrqEn_status (b : Bool) : (s.setIrqEn b).status = s.status := rfl
@[simp] theorem State.setIrqEn_pktLen (b : Bool) : (s.setIrqEn b).pktLen = s.pktLen := rfl
@[simp] theorem State.setIrqEn_convLimit (b : Bool) : (s.setIrqEn b).convLimit = s.convLimit := rfl
@[simp] theorem State.setIrqEn_errInfo (b : Bool) : (s.setIrqEn b).errInfo = s.errInfo := rfl
@[simp] theorem State.setIrqEn_hdr (b : Bool) : (s.setIrqEn b).hdr = s.hdr := rfl
@[simp] theorem State.setIrqEn_counts (b : Bool) : (s.setIrqEn b).counts = s.counts := rfl
@[simp] theorem State.setIrqEn_results (b : Bool) : (s.setIrqEn b).results = s.results := rfl
@[simp] theorem State.setIrqEn_conv (b : Bool) : (s.setIrqEn b).conv = s.conv := rfl
@[simp] theorem State.setIrqEn_symtab (b : Bool) : (s.setIrqEn b).symtab = s.symtab := rfl
@[simp] theorem State.setIrqEn_work (b : Bool) : (s.setIrqEn b).work = s.work := rfl
@[simp] theorem State.setIrqEn_sequencer (b : Bool) : (s.setIrqEn b).sequencer = s.sequencer := rfl
@[simp] theorem State.setIrqEn_pkt (b : Bool) : (s.setIrqEn b).pkt = s.pkt := rfl
@[simp] theorem State.setIrqEn_out (b : Bool) : (s.setIrqEn b).out = s.out := rfl
@[simp] theorem State.setIrqEn_tree (b : Bool) : (s.setIrqEn b).tree = s.tree := rfl
@[simp] theorem State.setIrqEn_table (b : Bool) : (s.setIrqEn b).table = s.table := rfl
@[simp] theorem State.setIrqEn_rst (b : Bool) : (s.setIrqEn b).rst = s.rst := rfl
@[simp] theorem State.setIrqEn_events (b : Bool) : (s.setIrqEn b).events = s.events := rfl
@[simp] theorem State.setIrqEn_resp (b : Bool) : (s.setIrqEn b).resp = s.resp := rfl
@[simp] theorem State.setIrqEn_draws (b : Bool) : (s.setIrqEn b).draws = s.draws := rfl

@[simp] theorem State.scrambleTree_params : s.scrambleTree.params = s.params := rfl
@[simp] theorem State.scrambleTree_irqEn : s.scrambleTree.irqEn = s.irqEn := rfl
@[simp] theorem State.scrambleTree_status : s.scrambleTree.status = s.status := rfl
@[simp] theorem State.scrambleTree_pktLen : s.scrambleTree.pktLen = s.pktLen := rfl
@[simp] theorem State.scrambleTree_convLimit : s.scrambleTree.convLimit = s.convLimit := rfl
@[simp] theorem State.scrambleTree_errInfo : s.scrambleTree.errInfo = s.errInfo := rfl
@[simp] theorem State.scrambleTree_hdr : s.scrambleTree.hdr = s.hdr := rfl
@[simp] theorem State.scrambleTree_counts : s.scrambleTree.counts = s.counts := rfl
@[simp] theorem State.scrambleTree_results : s.scrambleTree.results = s.results := rfl
@[simp] theorem State.scrambleTree_conv : s.scrambleTree.conv = s.conv := rfl
@[simp] theorem State.scrambleTree_symtab : s.scrambleTree.symtab = s.symtab := rfl
@[simp] theorem State.scrambleTree_work : s.scrambleTree.work = s.work := rfl
@[simp] theorem State.scrambleTree_sequencer : s.scrambleTree.sequencer = s.sequencer := rfl
@[simp] theorem State.scrambleTree_pkt : s.scrambleTree.pkt = s.pkt := rfl
@[simp] theorem State.scrambleTree_out : s.scrambleTree.out = s.out := rfl
@[simp] theorem State.scrambleTree_tree : s.scrambleTree.tree = Memory.unspecified s.draws := rfl
@[simp] theorem State.scrambleTree_table : s.scrambleTree.table = s.table := rfl
@[simp] theorem State.scrambleTree_rst : s.scrambleTree.rst = s.rst := rfl
@[simp] theorem State.scrambleTree_events : s.scrambleTree.events = s.events := rfl
@[simp] theorem State.scrambleTree_resp : s.scrambleTree.resp = s.resp := rfl
@[simp] theorem State.scrambleTree_draws : s.scrambleTree.draws = s.draws + 1 := rfl

@[simp] theorem State.scrambleTable_params : s.scrambleTable.params = s.params := rfl
@[simp] theorem State.scrambleTable_irqEn : s.scrambleTable.irqEn = s.irqEn := rfl
@[simp] theorem State.scrambleTable_status : s.scrambleTable.status = s.status := rfl
@[simp] theorem State.scrambleTable_pktLen : s.scrambleTable.pktLen = s.pktLen := rfl
@[simp] theorem State.scrambleTable_convLimit : s.scrambleTable.convLimit = s.convLimit := rfl
@[simp] theorem State.scrambleTable_errInfo : s.scrambleTable.errInfo = s.errInfo := rfl
@[simp] theorem State.scrambleTable_hdr : s.scrambleTable.hdr = s.hdr := rfl
@[simp] theorem State.scrambleTable_counts : s.scrambleTable.counts = s.counts := rfl
@[simp] theorem State.scrambleTable_results : s.scrambleTable.results = s.results := rfl
@[simp] theorem State.scrambleTable_conv : s.scrambleTable.conv = s.conv := rfl
@[simp] theorem State.scrambleTable_symtab : s.scrambleTable.symtab = s.symtab := rfl
@[simp] theorem State.scrambleTable_work : s.scrambleTable.work = s.work := rfl
@[simp] theorem State.scrambleTable_sequencer : s.scrambleTable.sequencer = s.sequencer := rfl
@[simp] theorem State.scrambleTable_pkt : s.scrambleTable.pkt = s.pkt := rfl
@[simp] theorem State.scrambleTable_out : s.scrambleTable.out = s.out := rfl
@[simp] theorem State.scrambleTable_tree : s.scrambleTable.tree = s.tree := rfl
@[simp] theorem State.scrambleTable_table : s.scrambleTable.table = Memory.unspecified s.draws := rfl
@[simp] theorem State.scrambleTable_rst : s.scrambleTable.rst = s.rst := rfl
@[simp] theorem State.scrambleTable_events : s.scrambleTable.events = s.events := rfl
@[simp] theorem State.scrambleTable_resp : s.scrambleTable.resp = s.resp := rfl
@[simp] theorem State.scrambleTable_draws : s.scrambleTable.draws = s.draws + 1 := rfl

@[simp] theorem State.scrambleOut_params (n : Nat) : (s.scrambleOut n).params = s.params := rfl
@[simp] theorem State.scrambleOut_irqEn (n : Nat) : (s.scrambleOut n).irqEn = s.irqEn := rfl
@[simp] theorem State.scrambleOut_status (n : Nat) : (s.scrambleOut n).status = s.status := rfl
@[simp] theorem State.scrambleOut_pktLen (n : Nat) : (s.scrambleOut n).pktLen = s.pktLen := rfl
@[simp] theorem State.scrambleOut_convLimit (n : Nat) : (s.scrambleOut n).convLimit = s.convLimit := rfl
@[simp] theorem State.scrambleOut_errInfo (n : Nat) : (s.scrambleOut n).errInfo = s.errInfo := rfl
@[simp] theorem State.scrambleOut_hdr (n : Nat) : (s.scrambleOut n).hdr = s.hdr := rfl
@[simp] theorem State.scrambleOut_counts (n : Nat) : (s.scrambleOut n).counts = s.counts := rfl
@[simp] theorem State.scrambleOut_results (n : Nat) : (s.scrambleOut n).results = s.results := rfl
@[simp] theorem State.scrambleOut_conv (n : Nat) : (s.scrambleOut n).conv = s.conv := rfl
@[simp] theorem State.scrambleOut_symtab (n : Nat) : (s.scrambleOut n).symtab = s.symtab := rfl
@[simp] theorem State.scrambleOut_work (n : Nat) : (s.scrambleOut n).work = s.work := rfl
@[simp] theorem State.scrambleOut_sequencer (n : Nat) : (s.scrambleOut n).sequencer = s.sequencer := rfl
@[simp] theorem State.scrambleOut_pkt (n : Nat) : (s.scrambleOut n).pkt = s.pkt := rfl
@[simp] theorem State.scrambleOut_out (n : Nat) : (s.scrambleOut n).out = s.out.put 0 (freeBytes s.draws n) := rfl
@[simp] theorem State.scrambleOut_tree (n : Nat) : (s.scrambleOut n).tree = s.tree := rfl
@[simp] theorem State.scrambleOut_table (n : Nat) : (s.scrambleOut n).table = s.table := rfl
@[simp] theorem State.scrambleOut_rst (n : Nat) : (s.scrambleOut n).rst = s.rst := rfl
@[simp] theorem State.scrambleOut_events (n : Nat) : (s.scrambleOut n).events = s.events := rfl
@[simp] theorem State.scrambleOut_resp (n : Nat) : (s.scrambleOut n).resp = s.resp := rfl
@[simp] theorem State.scrambleOut_draws (n : Nat) : (s.scrambleOut n).draws = s.draws + 1 := rfl

@[simp] theorem State.setRst_params (b : Bool) : (s.setRst b).params = s.params := rfl
@[simp] theorem State.setRst_irqEn (b : Bool) : (s.setRst b).irqEn = s.irqEn := rfl
@[simp] theorem State.setRst_status (b : Bool) : (s.setRst b).status = s.status := rfl
@[simp] theorem State.setRst_pktLen (b : Bool) : (s.setRst b).pktLen = s.pktLen := rfl
@[simp] theorem State.setRst_convLimit (b : Bool) : (s.setRst b).convLimit = s.convLimit := rfl
@[simp] theorem State.setRst_errInfo (b : Bool) : (s.setRst b).errInfo = s.errInfo := rfl
@[simp] theorem State.setRst_hdr (b : Bool) : (s.setRst b).hdr = s.hdr := rfl
@[simp] theorem State.setRst_counts (b : Bool) : (s.setRst b).counts = s.counts := rfl
@[simp] theorem State.setRst_results (b : Bool) : (s.setRst b).results = s.results := rfl
@[simp] theorem State.setRst_conv (b : Bool) : (s.setRst b).conv = s.conv := rfl
@[simp] theorem State.setRst_symtab (b : Bool) : (s.setRst b).symtab = s.symtab := rfl
@[simp] theorem State.setRst_work (b : Bool) : (s.setRst b).work = s.work := rfl
@[simp] theorem State.setRst_sequencer (b : Bool) : (s.setRst b).sequencer = s.sequencer := rfl
@[simp] theorem State.setRst_pkt (b : Bool) : (s.setRst b).pkt = s.pkt := rfl
@[simp] theorem State.setRst_out (b : Bool) : (s.setRst b).out = s.out := rfl
@[simp] theorem State.setRst_tree (b : Bool) : (s.setRst b).tree = s.tree := rfl
@[simp] theorem State.setRst_table (b : Bool) : (s.setRst b).table = s.table := rfl
@[simp] theorem State.setRst_rst (b : Bool) : (s.setRst b).rst = b := rfl
@[simp] theorem State.setRst_events (b : Bool) : (s.setRst b).events = s.events := rfl
@[simp] theorem State.setRst_resp (b : Bool) : (s.setRst b).resp = s.resp := rfl
@[simp] theorem State.setRst_draws (b : Bool) : (s.setRst b).draws = s.draws := rfl

@[simp] theorem State.markCmdDrop_params : s.markCmdDrop.params = s.params := rfl
@[simp] theorem State.markCmdDrop_irqEn : s.markCmdDrop.irqEn = s.irqEn := rfl
@[simp] theorem State.markCmdDrop_status : s.markCmdDrop.status = { s.status with cmdDrop := true } := rfl
@[simp] theorem State.markCmdDrop_pktLen : s.markCmdDrop.pktLen = s.pktLen := rfl
@[simp] theorem State.markCmdDrop_convLimit : s.markCmdDrop.convLimit = s.convLimit := rfl
@[simp] theorem State.markCmdDrop_errInfo : s.markCmdDrop.errInfo = s.errInfo := rfl
@[simp] theorem State.markCmdDrop_hdr : s.markCmdDrop.hdr = s.hdr := rfl
@[simp] theorem State.markCmdDrop_counts : s.markCmdDrop.counts = s.counts := rfl
@[simp] theorem State.markCmdDrop_results : s.markCmdDrop.results = s.results := rfl
@[simp] theorem State.markCmdDrop_conv : s.markCmdDrop.conv = s.conv := rfl
@[simp] theorem State.markCmdDrop_symtab : s.markCmdDrop.symtab = s.symtab := rfl
@[simp] theorem State.markCmdDrop_work : s.markCmdDrop.work = s.work := rfl
@[simp] theorem State.markCmdDrop_sequencer : s.markCmdDrop.sequencer = s.sequencer := rfl
@[simp] theorem State.markCmdDrop_pkt : s.markCmdDrop.pkt = s.pkt := rfl
@[simp] theorem State.markCmdDrop_out : s.markCmdDrop.out = s.out := rfl
@[simp] theorem State.markCmdDrop_tree : s.markCmdDrop.tree = s.tree := rfl
@[simp] theorem State.markCmdDrop_table : s.markCmdDrop.table = s.table := rfl
@[simp] theorem State.markCmdDrop_rst : s.markCmdDrop.rst = s.rst := rfl
@[simp] theorem State.markCmdDrop_events : s.markCmdDrop.events = s.events := rfl
@[simp] theorem State.markCmdDrop_resp : s.markCmdDrop.resp = s.resp := rfl
@[simp] theorem State.markCmdDrop_draws : s.markCmdDrop.draws = s.draws := rfl

@[simp] theorem State.markAccDrop_params : s.markAccDrop.params = s.params := rfl
@[simp] theorem State.markAccDrop_irqEn : s.markAccDrop.irqEn = s.irqEn := rfl
@[simp] theorem State.markAccDrop_status : s.markAccDrop.status = { s.status with accDrop := true } := rfl
@[simp] theorem State.markAccDrop_pktLen : s.markAccDrop.pktLen = s.pktLen := rfl
@[simp] theorem State.markAccDrop_convLimit : s.markAccDrop.convLimit = s.convLimit := rfl
@[simp] theorem State.markAccDrop_errInfo : s.markAccDrop.errInfo = s.errInfo := rfl
@[simp] theorem State.markAccDrop_hdr : s.markAccDrop.hdr = s.hdr := rfl
@[simp] theorem State.markAccDrop_counts : s.markAccDrop.counts = s.counts := rfl
@[simp] theorem State.markAccDrop_results : s.markAccDrop.results = s.results := rfl
@[simp] theorem State.markAccDrop_conv : s.markAccDrop.conv = s.conv := rfl
@[simp] theorem State.markAccDrop_symtab : s.markAccDrop.symtab = s.symtab := rfl
@[simp] theorem State.markAccDrop_work : s.markAccDrop.work = s.work := rfl
@[simp] theorem State.markAccDrop_sequencer : s.markAccDrop.sequencer = s.sequencer := rfl
@[simp] theorem State.markAccDrop_pkt : s.markAccDrop.pkt = s.pkt := rfl
@[simp] theorem State.markAccDrop_out : s.markAccDrop.out = s.out := rfl
@[simp] theorem State.markAccDrop_tree : s.markAccDrop.tree = s.tree := rfl
@[simp] theorem State.markAccDrop_table : s.markAccDrop.table = s.table := rfl
@[simp] theorem State.markAccDrop_rst : s.markAccDrop.rst = s.rst := rfl
@[simp] theorem State.markAccDrop_events : s.markAccDrop.events = s.events := rfl
@[simp] theorem State.markAccDrop_resp : s.markAccDrop.resp = s.resp := rfl
@[simp] theorem State.markAccDrop_draws : s.markAccDrop.draws = s.draws := rfl

@[simp] theorem State.markBusErr_params : s.markBusErr.params = s.params := rfl
@[simp] theorem State.markBusErr_irqEn : s.markBusErr.irqEn = s.irqEn := rfl
@[simp] theorem State.markBusErr_status : s.markBusErr.status = { s.status with busErr := true } := rfl
@[simp] theorem State.markBusErr_pktLen : s.markBusErr.pktLen = s.pktLen := rfl
@[simp] theorem State.markBusErr_convLimit : s.markBusErr.convLimit = s.convLimit := rfl
@[simp] theorem State.markBusErr_errInfo : s.markBusErr.errInfo = s.errInfo := rfl
@[simp] theorem State.markBusErr_hdr : s.markBusErr.hdr = s.hdr := rfl
@[simp] theorem State.markBusErr_counts : s.markBusErr.counts = s.counts := rfl
@[simp] theorem State.markBusErr_results : s.markBusErr.results = s.results := rfl
@[simp] theorem State.markBusErr_conv : s.markBusErr.conv = s.conv := rfl
@[simp] theorem State.markBusErr_symtab : s.markBusErr.symtab = s.symtab := rfl
@[simp] theorem State.markBusErr_work : s.markBusErr.work = s.work := rfl
@[simp] theorem State.markBusErr_sequencer : s.markBusErr.sequencer = s.sequencer := rfl
@[simp] theorem State.markBusErr_pkt : s.markBusErr.pkt = s.pkt := rfl
@[simp] theorem State.markBusErr_out : s.markBusErr.out = s.out := rfl
@[simp] theorem State.markBusErr_tree : s.markBusErr.tree = s.tree := rfl
@[simp] theorem State.markBusErr_table : s.markBusErr.table = s.table := rfl
@[simp] theorem State.markBusErr_rst : s.markBusErr.rst = s.rst := rfl
@[simp] theorem State.markBusErr_events : s.markBusErr.events = s.events := rfl
@[simp] theorem State.markBusErr_resp : s.markBusErr.resp = s.resp := rfl
@[simp] theorem State.markBusErr_draws : s.markBusErr.draws = s.draws := rfl

end Machine
end Sys2Proof
end

