-- ==== Sys2Proof/Laws/HostPort.lean ====
section
/-! SUPPORT. The host port: which accesses get an error response, and the four outcomes of a transaction (20_memory.md R48 to R55,
70_reset_and_hazards.md R157). -/

namespace Sys2Proof
namespace Machine

/-! ## Windows -/

/-- The window of an address, as the ranges of R48. -/
theorem windowOf_cases (a : HostAddr) :
    (a.toNat < 0x01000 ∧ windowOf a = .regs a.toNat) ∨
    (0x01000 ≤ a.toNat ∧ a.toNat < 0x02000 ∧ windowOf a = .tree (a.toNat - 0x01000)) ∨
    (0x02000 ≤ a.toNat ∧ a.toNat < 0x10000 ∧ windowOf a = .unmapped) ∨
    (0x10000 ≤ a.toNat ∧ a.toNat < 0x20000 ∧ windowOf a = .table (a.toNat - 0x10000)) ∨
    (0x20000 ≤ a.toNat ∧ a.toNat < 0x30000 ∧ windowOf a = .pkt (a.toNat - 0x20000)) ∨
    (0x30000 ≤ a.toNat ∧ windowOf a = .out (a.toNat - 0x30000)) := by
  unfold windowOf
  simp only
  split_ifs <;> simp <;> omega

theorem naturalAccess_iff (n : Nat) (a : HostAddr) : naturalAccess n a = true ↔ (n = 1 ∨ n = 2 ∨ n = 4) ∧ a.toNat % n = 0 := by
  simp [naturalAccess, or_assoc]

theorem wordAccess_iff (n : Nat) (a : HostAddr) : wordAccess n a = true ↔ n = 4 ∧ a.toNat % 4 = 0 := by
  simp [wordAccess]

/-- Exactly the addresses from 0x01000 on that are mapped lie in a memory window. -/
theorem inMemoryWindow_of_regs {a : HostAddr} (h : a.toNat < 0x01000) : inMemoryWindow a = false := by
  rcases windowOf_cases a with ⟨_, e⟩ | ⟨_, _, e⟩ | ⟨_, _, e⟩ | ⟨_, _, e⟩ | ⟨_, _, e⟩ | ⟨_, e⟩ <;>
    simp only [inMemoryWindow, e] <;> omega

/-- A mapped address from 0x01000 on lies in a memory window: without an error response an access there is a memory access. -/
theorem inMemoryWindow_of_mapped {p : Config.Params} {write : Bool} {n : Nat} {a : HostAddr} (h : 0x01000 ≤ a.toNat)
    (hb : busError p write n a = false) : inMemoryWindow a = true := by
  rcases windowOf_cases a with ⟨_, e⟩ | ⟨_, _, e⟩ | ⟨_, _, e⟩ | ⟨_, _, e⟩ | ⟨_, _, e⟩ | ⟨_, e⟩ <;>
    simp only [inMemoryWindow, busError, e] at * <;> first | omega | simp at hb

/-! ## Outcomes of a transaction -/

/-- Everything a host read can do: nothing under RST; an error response; a dropped access; or its data. -/
theorem hostRead_cases (n : Nat) (a : HostAddr) (s : State) :
    (s.rst = true ∧ hostRead n a s = s.answer false 0) ∨
    (s.rst = false ∧ busError s.params false n a = true ∧ hostRead n a s = s.markBusErr.answer true 0) ∨
    (s.rst = false ∧ busError s.params false n a = false ∧ s.busy = true ∧ inMemoryWindow a = true ∧
      hostRead n a s = s.markAccDrop.answer false 0) ∨
    (s.rst = false ∧ busError s.params false n a = false ∧ (s.busy = false ∨ inMemoryWindow a = false) ∧
      hostRead n a s = s.answer false (s.readData n a)) := by
  unfold hostRead
  cases s.rst <;> cases busError s.params false n a <;> cases s.busy <;> cases inMemoryWindow a <;> simp

/-- Everything a host write can do: nothing under RST; an error response; a dropped access; or its effect. -/
theorem hostWrite_cases (n : Nat) (a : HostAddr) (v : Word) (s : State) :
    (s.rst = true ∧ hostWrite n a v s = s.answer false 0) ∨
    (s.rst = false ∧ busError s.params true n a = true ∧ hostWrite n a v s = s.markBusErr.answer true 0) ∨
    (s.rst = false ∧ busError s.params true n a = false ∧ s.busy = true ∧ inMemoryWindow a = true ∧
      hostWrite n a v s = s.markAccDrop.answer false 0) ∨
    (s.rst = false ∧ busError s.params true n a = false ∧ (s.busy = false ∨ inMemoryWindow a = false) ∧
      hostWrite n a v s = (s.writeData n a v).answer false 0) := by
  unfold hostWrite
  cases s.rst <;> cases busError s.params true n a <;> cases s.busy <;> cases inMemoryWindow a <;> simp

/-- A transaction gets an error response exactly where `busError` says so, and never under RST. -/
theorem hostRead_resp_err (n : Nat) (a : HostAddr) (s : State) :
    (hostRead n a s).resp.err = (!s.rst && busError s.params false n a) := by
  rcases hostRead_cases n a s with ⟨h, e⟩ | ⟨h, hb, e⟩ | ⟨h, hb, _, _, e⟩ | ⟨h, hb, _, e⟩ <;> simp [*]

theorem hostWrite_resp_err (n : Nat) (a : HostAddr) (v : Word) (s : State) :
    (hostWrite n a v s).resp.err = (!s.rst && busError s.params true n a) := by
  rcases hostWrite_cases n a v s with ⟨h, e⟩ | ⟨h, hb, e⟩ | ⟨h, hb, _, _, e⟩ | ⟨h, hb, _, e⟩ <;> simp [*]

/-- Everything a write that is neither an error nor dropped can do, by its window. -/
theorem writeData_cases {s : State} {n : Nat} {a : HostAddr} {v : Word} (h : busError s.params true n a = false) :
    (a.toNat < 0x01000 ∧ n = 4 ∧ a.toNat % 4 = 0 ∧ s.writeData n a v = s.writeWindow a.toNat v) ∨
    (0x20000 ≤ a.toNat ∧ a.toNat < 0x30000 ∧ (n = 1 ∨ n = 2 ∨ n = 4) ∧ a.toNat % n = 0 ∧
      a.toNat - 0x20000 + n ≤ s.params.pktBytes ∧
      s.writeData n a v = s.hostPacket (a.toNat - 0x20000) (toBytes n v.toNat)) ∨
    (0x30000 ≤ a.toNat ∧ (n = 1 ∨ n = 2 ∨ n = 4) ∧ a.toNat % n = 0 ∧ a.toNat - 0x30000 + n ≤ s.params.outBytes ∧
      s.writeData n a v = s.hostOutput (a.toNat - 0x30000) (toBytes n v.toNat)) := by
  rcases windowOf_cases a with ⟨_, e⟩ | ⟨_, _, e⟩ | ⟨_, _, e⟩ | ⟨_, _, e⟩ | ⟨_, _, e⟩ | ⟨_, e⟩ <;>
    simp only [busError, e, Bool.or_eq_false_iff, Bool.not_eq_false', decide_eq_false_iff_not, naturalAccess_iff,
      wordAccess_iff, Bool.true_or, Bool.true_eq_false, not_lt] at h
  · exact .inl ⟨by assumption, h.1, h.2, by simp [State.writeData, e]⟩
  · exact .inr (.inl ⟨by assumption, by assumption, h.1.1, h.1.2, h.2, by simp [State.writeData, e]⟩)
  · exact .inr (.inr ⟨by assumption, h.1.1, h.1.2, h.2, by simp [State.writeData, e]⟩)

/-! ## The register window -/

/-- Every register stands at its own offset (10_state.md R11). -/
theorem regAt_offset (r : Reg) : regAt r.offset = some r := by
  cases r with
  | chStart i => fin_cases i <;> rfl
  | chConv i => fin_cases i <;> rfl
  | _ => rfl

theorem windowOf_regs {a : HostAddr} (h : a.toNat < 0x01000) : windowOf a = .regs a.toNat := by
  simp [windowOf, h]

theorem busError_regs (p : Config.Params) (write : Bool) {a : HostAddr} (h : a.toNat < 0x01000) (h4 : a.toNat % 4 = 0) :
    busError p write 4 a = false := by
  simp [busError, windowOf_regs h, wordAccess, h4]

/-- A 32-bit read of the register window reads the register, whether or not a command runs (R11, R55). -/
theorem hostRead_word {s : State} {a : HostAddr} (hr : s.rst = false) (h : a.toNat < 0x01000) (h4 : a.toNat % 4 = 0) :
    hostRead 4 a s = s.answer false (s.readWindow a.toNat) := by
  simp [hostRead, hr, busError_regs s.params false h h4, inMemoryWindow_of_regs h, State.readData, windowOf_regs h]

/-- A 32-bit write of the register window has the register's effect (R11). -/
theorem hostWrite_word {s : State} {a : HostAddr} {v : Word} (hr : s.rst = false) (h : a.toNat < 0x01000) (h4 : a.toNat % 4 = 0) :
    hostWrite 4 a v s = (s.writeWindow a.toNat v).answer false 0 := by
  simp [hostWrite, hr, busError_regs s.params true h h4, inMemoryWindow_of_regs h, State.writeData, windowOf_regs h]

/-- A write at a register's offset is a write of that register. -/
theorem writeWindow_offset (s : State) (v : Word) (r : Reg) : s.writeWindow r.offset v = s.writeReg v r := by
  simp [State.writeWindow, regAt_offset]

theorem readWindow_offset (s : State) (r : Reg) : s.readWindow r.offset = s.regValue r := by
  simp [State.readWindow, regAt_offset]

end Machine
end Sys2Proof
end

