-- ==== Sys2Proof/Laws/Parse.lean ====
section
/-! SUPPORT. What the checks of PARSE can answer (41_parse.md R86 to R89), and what they read. -/

namespace Sys2Proof
namespace Machine

/-- A header that passes the checks, with every bound they give (R86 to R89). -/
theorem checkHeader_ok {len outBytes : Nat} {h h' : PacketHeader} (hh : checkHeader len outBytes h = .ok h') :
    h' = h ∧ 12 ≤ len ∧ 2 ≤ h.nsym ∧ h.nsym ≤ 12 ∧ 24 + 8 * h.nsym ≤ len ∧ h.total ≤ len ∧
      24 + 8 * h.nsym + h.encLen ≤ len ∧ h.bits ≤ 8 * h.encLen ∧ h.decLen ≤ outBytes := by
  unfold checkHeader at hh
  split_ifs at hh
  simp only [Config.maxSymbols] at *
  refine ⟨(Except.ok.inj hh).symm, ?_⟩
  omega

/-- A header that fails: one of the three codes of R87, R88, R89. -/
theorem checkHeader_error {len outBytes : Nat} {h : PacketHeader} {e : Ending} (hh : checkHeader len outBytes h = .error e) :
    e.code = .truncated ∨ e.code = .symtab ∨ e.code = .outSize := by
  unfold checkHeader at hh
  split_ifs at hh <;> rw [← Except.error.inj hh] <;> simp [truncatedBy]

/-- A packet that PARSE accepts: the header at its fixed offsets, with every bound the checks give (R86 to R89). -/
theorem readHeader_ok {s : State} {h : PacketHeader} (hh : readHeader s = .ok h) :
    h = s.headerAt (s.le32 8) ∧ 12 ≤ s.pktLen.toNat ∧ 2 ≤ h.nsym ∧ h.nsym ≤ 12 ∧ 24 + 8 * h.nsym ≤ s.pktLen.toNat ∧
      h.total ≤ s.pktLen.toNat ∧ 24 + 8 * h.nsym + h.encLen ≤ s.pktLen.toNat ∧ h.bits ≤ 8 * h.encLen ∧
      h.decLen ≤ s.params.outBytes := by
  obtain ⟨rfl, hb⟩ := checkHeader_ok hh
  exact ⟨rfl, hb⟩

/-- A packet that PARSE refuses: one of the three codes of R87, R88, R89. -/
theorem readHeader_error {s : State} {e : Ending} (hh : readHeader s = .error e) :
    e.code = .truncated ∨ e.code = .symtab ∨ e.code = .outSize :=
  checkHeader_error hh

/-- The checks of PARSE read PKT_MEM, PKT_LEN and the parameters, and nothing else (41_parse.md R92). -/
theorem readHeader_congr {s t : State} (hp : t.pkt = s.pkt) (hl : t.pktLen = s.pktLen) (hq : t.params = s.params) :
    readHeader t = readHeader s := by
  simp only [readHeader, State.headerAt, State.le32, State.le64, hp, hl, hq]

/-- The numbers of a header fit their registers (10_state.md R25 to R29). -/
theorem headerAt_lt (s : State) (n : Nat) :
    (s.headerAt n).total < 2 ^ 64 ∧ (s.headerAt n).bits < 2 ^ 32 ∧ (s.headerAt n).encLen < 2 ^ 32 ∧
      (s.headerAt n).decLen < 2 ^ 32 := by
  have h8 := s.pkt.le_lt 0 8
  have hb := s.pkt.le_lt (12 + 8 * n) 4
  have he := s.pkt.le_lt (16 + 8 * n) 4
  have hd := s.pkt.le_lt (20 + 8 * n) 4
  norm_num at h8 hb he hd
  simp only [State.headerAt, State.le32, State.le64]
  norm_num
  exact ⟨h8, hb, he, hd⟩

/-- An entry of the latched symbol table (R90). -/
theorem latchedSymtab_getElem (s : State) (n : Nat) (j : Fin 12) :
    (latchedSymtab s n)[j.val] = if j.val < n then s.packetEntry j.val else s.symtab[j.val] := by
  simp [latchedSymtab]

end Machine
end Sys2Proof
end

