-- ==== Sys2Proof/Laws/Ops.lean ====
section
/-! SUPPORT. The command life cycle: what a completion is, how `exec` and the composite command unfold, and what each command's run
can answer. Later proofs cite these lemmas instead of unfolding the meanings. -/

namespace Sys2Proof
namespace Machine

/-! ## Endings and completion (60_exceptions.md R140, R141) -/

@[simp] theorem succeed_state (s : State) : (succeed s).state = s := rfl

@[simp] theorem succeed_ending (s : State) : (succeed s).ending = Ending.success := rfl

@[simp] theorem raiseErr_state (s : State) (c : ErrCode) (i : Word) : (raiseErr s c i).state = s := rfl

@[simp] theorem raiseErr_ending (s : State) (c : ErrCode) (i : Word) : (raiseErr s c i).ending = { code := c, info := i } := rfl

@[simp] theorem Ending.success_code : Ending.success.code = .ok := rfl

@[simp] theorem Ending.success_info : Ending.success.info = 0 := rfl

/-- A completion is always a next state, and which one (R140). -/
theorem complete_eq_next {op : Byte} {r : CommandResult} {t : State} :
    complete op r = .next t ↔ r.state.finish op r.ending = t := by
  simp [complete]

/-- A composite command goes on only from a step that succeeded (45_control.md R137). -/
theorem CommandResult.andThen_ok {r : CommandResult} (f : State → CommandResult) (h : r.ending.code = .ok) :
    r.andThen f = f r.state := by
  simp [CommandResult.andThen, h]

/-- A composite command stops at a step that raised (45_control.md R137). -/
theorem CommandResult.andThen_raised {r : CommandResult} (f : State → CommandResult) (h : r.ending.code ≠ .ok) :
    r.andThen f = r := by
  simp [CommandResult.andThen, h]

/-- The run of a command: its writes and its ending, before completion. -/
def runOf : Instr → State → CommandResult
  | .nop, s => succeed s
  | .parse, s => parseRun s
  | .buildTree, s => buildTreeRun s
  | .genTables, s => genTablesRun s
  | .decode k, s => decodeRun k s
  | .treeDecode, s => treeDecodeRun s
  | .heapOrder, s => heapOrderRun s
  | .decodePacket k, s => decodePacketRun k s
  | .clear, s => succeed s.clearDerived

/-- Executing a command is completing its run, with its opcode as LAST_OP (R140). -/
theorem exec_eq_complete (i : Instr) (s : State) : exec i s = complete i.opcode (runOf i s) := by
  cases i <;> rfl

/-- The inversion of `exec`: the one next state. -/
theorem exec_eq_next {i : Instr} {s t : State} : exec i s = .next t ↔ (runOf i s).state.finish i.opcode (runOf i s).ending = t := by
  rw [exec_eq_complete, complete_eq_next]

/-! ## What each run can answer -/

/-- PARSE latches the header of a packet that passes its checks, or drops the header (41_parse.md R90, R91). -/
theorem parseRun_cases (s : State) :
    (∃ h, readHeader s = .ok h ∧ parseRun s = succeed (s.latchHeader h.registers (latchedSymtab s h.nsym))) ∨
    (∃ e, readHeader s = .error e ∧ parseRun s = { state := s.dropHeader, ending := e }) := by
  unfold parseRun
  split
  · exact .inl ⟨_, by assumption, rfl⟩
  · exact .inr ⟨_, by assumption, rfl⟩

/-- HEAP_ORDER writes the pop order, or refuses the phase (42_tree.md R101). -/
theorem heapOrderRun_cases (s : State) :
    (s.phaseAtLeast .parsed = true ∧
      heapOrderRun s = succeed ((s.storeOrder (orderedSymbols s.symbols (seedHeap s.symbols)) s.hdr.nsym).setWork Workspace.none)) ∨
    (s.phaseAtLeast .parsed = false ∧ heapOrderRun s = raiseSeq s) := by
  unfold heapOrderRun
  split
  · exact .inl ⟨by assumption, rfl⟩
  · exact .inr ⟨Bool.eq_false_iff.2 (by assumption), rfl⟩

/-- BUILD_TREE writes the tree of the symbol table, or refuses the phase (42_tree.md R102). -/
theorem buildTreeRun_cases (s : State) :
    (s.phaseAtLeast .parsed = true ∧
      buildTreeRun s = succeed ((s.storeTree (treeImage (treeOf s.symbols))
        (countsFor s.symbolCount (deepestLeaf (grownTree s.symbols).2 (rootOf (grownTree s.symbols).1)))).setWork Workspace.none)) ∨
    (s.phaseAtLeast .parsed = false ∧ buildTreeRun s = raiseSeq s) := by
  unfold buildTreeRun
  split
  · exact .inl ⟨by assumption, rfl⟩
  · exact .inr ⟨Bool.eq_false_iff.2 (by assumption), rfl⟩

/-- GEN_TABLES writes the tables of TREE_MEM, or refuses the phase (43_tables.md R112). -/
theorem genTablesRun_cases (s : State) :
    (s.phaseAtLeast .tree = true ∧ genTablesRun s = succeed (s.storeTables (tableImage s.tree.nodes s.counts.states.toNat))) ∨
    (s.phaseAtLeast .tree = false ∧ genTablesRun s = raiseSeq s) := by
  unfold genTablesRun
  split
  · exact .inl ⟨by assumption, rfl⟩
  · exact .inr ⟨Bool.eq_false_iff.2 (by assumption), rfl⟩

/-- TREE_DECODE writes the walk's output, fails with the walk's error, or refuses the phase (44_decode.md R130). -/
theorem treeDecodeRun_cases (s : State) :
    (∃ w fin, s.phaseAtLeast .tree = true ∧
      treeWalk s.tree.nodes s.counts.nodes.toNat s.decodedLen s.bitCount (streamBits s.stream) = .ok (w, fin) ∧
      treeDecodeRun s = succeed (s.storeDecoded w.rev.reverse (decodedRegs s w.p fin))) ∨
    (∃ e, s.phaseAtLeast .tree = true ∧
      treeWalk s.tree.nodes s.counts.nodes.toNat s.decodedLen s.bitCount (streamBits s.stream) = .error e ∧
      treeDecodeRun s = failDecode s e) ∨
    (s.phaseAtLeast .tree = false ∧ treeDecodeRun s = raiseSeq s) := by
  unfold treeDecodeRun
  split
  · split
    · exact .inr (.inl ⟨_, by assumption, by assumption, rfl⟩)
    · exact .inl ⟨_, _, by assumption, by assumption, rfl⟩
  · exact .inr (.inr ⟨Bool.eq_false_iff.2 (by assumption), rfl⟩)

/-- DECODE refuses its count, fails in the speculative pass, merges, or refuses the phase (44_decode.md R116). -/
theorem decodeRun_cases (k : Nat) (s : State) :
    (s.badCount k = true ∧ decodeRun k s = raiseBadArg s k) ∨
    (∃ e, s.badCount k = false ∧ s.status.phase = .tables ∧
      speculate s.table s.counts.states.toNat (s.segments k) = .error e ∧ decodeRun k s = failDecode s e) ∨
    (∃ cs, s.badCount k = false ∧ s.status.phase = .tables ∧
      speculate s.table s.counts.states.toNat (s.segments k) = .ok cs ∧
      decodeRun k s =
        (mergeResult (s.setWork { s.work with channels := cs }) k
          ((s.setWork { s.work with channels := cs }).merge k)).releaseWork) ∨
    (s.badCount k = false ∧ s.status.phase ≠ .tables ∧ decodeRun k s = raiseSeq s) := by
  unfold decodeRun
  split
  · exact .inl ⟨by assumption, rfl⟩
  · have hb : s.badCount k = false := by simpa using ‹¬ s.badCount k = true›
    split
    · split
      · exact .inr (.inl ⟨_, hb, by assumption, by assumption, rfl⟩)
      · exact .inr (.inr (.inl ⟨_, hb, by assumption, by assumption, rfl⟩))
    · exact .inr (.inr (.inr ⟨hb, by assumption, rfl⟩))

/-- A finished merge writes the results, or fails with a raised error, or with E_LENGTH (44_decode.md R124, R125). -/
theorem mergeResult_cases (s : State) (k : Nat) (m : Merger) :
    (∃ e, m.raised = some e ∧ e.code = .length ∧ mergeResult s k m = failDecode (s.setConv (s.mergedConv k m)) e) ∨
    (∃ e, m.raised = some e ∧ e.code ≠ .length ∧ mergeResult s k m = failDecode s e) ∨
    (m.raised = none ∧ m.done = true ∧
      mergeResult s k m =
        succeed ((s.storeDecoded m.emitted.rev.reverse (decodedRegs s m.emitted.bits m.fin)).setConv (s.mergedConv k m))) ∨
    (m.raised = none ∧ m.done = false ∧
      mergeResult s k m = failDecode (s.setConv (s.mergedConv k m)) (lengthEnding m.emitted.w)) := by
  unfold mergeResult
  split
  · rename_i e he
    by_cases hc : e.code = .length
    · exact .inl ⟨e, he, hc, by simp [hc]⟩
    · exact .inr (.inl ⟨e, he, hc, by simp [hc]⟩)
  · split
    · exact .inr (.inr (.inl ⟨by assumption, by assumption, rfl⟩))
    · exact .inr (.inr (.inr ⟨by assumption, by simpa using ‹¬ m.done = true›, rfl⟩))

/-- DECODE_PACKET refuses its count, stops at a failed PARSE, or runs DECODE on the prepared state (45_control.md R137): the three
steps before DECODE succeed. -/
theorem decodePacketRun_cases (k : Nat) (s : State) :
    (s.badCount k = true ∧ decodePacketRun k s = raiseBadArg s k) ∨
    (∃ e, s.badCount k = false ∧ readHeader s = .error e ∧ e.code ≠ .ok ∧ decodePacketRun k s = { state := s.dropHeader, ending := e }) ∨
    (∃ h, s.badCount k = false ∧ readHeader s = .ok h ∧
      decodePacketRun k s =
        decodeRun k (genTablesRun (buildTreeRun (s.latchHeader h.registers (latchedSymtab s h.nsym))).state).state) := by
  unfold decodePacketRun
  split
  · exact .inl ⟨by assumption, rfl⟩
  · have hb : s.badCount k = false := by simpa using ‹¬ s.badCount k = true›
    rcases parseRun_cases s with ⟨h, hh, hp⟩ | ⟨e, he, hp⟩
    · refine .inr (.inr ⟨h, hb, hh, ?_⟩)
      have h1 : (buildTreeRun (s.latchHeader h.registers (latchedSymtab s h.nsym))).ending.code = .ok := rfl
      have h2 : (genTablesRun (buildTreeRun (s.latchHeader h.registers (latchedSymtab s h.nsym))).state).ending.code = .ok := rfl
      have e0 : (parseRun s).andThen buildTreeRun = buildTreeRun (s.latchHeader h.registers (latchedSymtab s h.nsym)) := by
        rw [hp, CommandResult.andThen_ok buildTreeRun (succeed_ending _ ▸ rfl), succeed_state]
      rw [e0, CommandResult.andThen_ok genTablesRun h1, CommandResult.andThen_ok (decodeRun k) h2]
    · have hne : e.code ≠ .ok := by
        rcases readHeader_error he with h | h | h <;> simp [h]
      refine .inr (.inl ⟨e, hb, he, hne, ?_⟩)
      rw [hp]
      simp [CommandResult.andThen, hne]

end Machine
end Sys2Proof
end

