-- ==== Sys2Proof/Laws/PerInstr.lean ====
section
/-! SUPPORT. The families of statements about every command (LAWS.json), one lemma per constructor. -/

namespace Sys2Proof
namespace Laws
namespace EncodeFields

/-- 30_encoding.md R69, R70, R78: the fields of the encoding of a well-formed command are its opcode, its channel count (0 for a command
without one) and 0. -/
def Statement (i : Instr) : Prop :=
  i.wf = true → opField (encode i) = i.opcode ∧ kField (encode i) = i.channelCount.getD 0 ∧ rsvField (encode i) = 0

theorem nop : Statement .nop := fun _ => by decide

theorem parse : Statement .parse := fun _ => by decide

theorem buildTree : Statement .buildTree := fun _ => by decide

theorem genTables : Statement .genTables := fun _ => by decide

theorem decode (k : Nat) : Statement (.decode k) := fun h => by
  have hk : k < 16 := by simpa [Instr.wf, Instr.countFits, Instr.channelCount] using h
  revert h
  interval_cases k <;> decide

theorem treeDecode : Statement .treeDecode := fun _ => by decide

theorem heapOrder : Statement .heapOrder := fun _ => by decide

theorem decodePacket (k : Nat) : Statement (.decodePacket k) := fun h => by
  have hk : k < 16 := by simpa [Instr.wf, Instr.countFits, Instr.channelCount] using h
  revert h
  interval_cases k <;> decide

theorem clear : Statement .clear := fun _ => by decide

end EncodeFields
end Laws
end Sys2Proof
end

