-- ==== Sys2Proof/Laws/TreeWalk.lean ====
section
/-! SUPPORT. What the bit-by-bit tree walk can answer (44_decode.md R130). -/

namespace Sys2Proof
namespace Machine

theorem checkedChild_error {nodes : List TreeNode} {count x : Nat} {bit : Bool} {e : Ending}
    (h : checkedChild nodes count x bit = .error e) : e = corruptNode nodes x := by
  unfold checkedChild at h
  simp only at h
  split at h <;> cases h
  rfl

/-- A child that passes the check is the one the bit selects, below NODE_COUNT, a leaf or internal. -/
theorem checkedChild_ok {nodes : List TreeNode} {count x c : Nat} {bit : Bool} (h : checkedChild nodes count x bit = .ok c) :
    c = childOf nodes x bit ∧ c < count ∧ ((nodeAt nodes c).isLeaf = true ∨ (nodeAt nodes c).isInternal = true) := by
  unfold checkedChild at h
  simp only at h
  split at h
  · cases h
  · rename_i hc
    cases h
    simp only [not_or, not_and, Nat.not_le, Bool.not_eq_false] at hc
    refine ⟨rfl, hc.1, ?_⟩
    cases hl : (nodeAt nodes (childOf nodes x bit)).isLeaf with
    | true => exact .inl rfl
    | false => exact .inr (hc.2 hl)

/-- The first loop ends with D symbols within B bits, with E_LENGTH, or with E_CORRUPT. -/
theorem walkSymbols_cases {nodes : List TreeNode} {count d b : Nat} {bits : List Bool} {t : TreeWalk} (hl : t.rev.length = t.w)
    (hw : t.w ≤ d) (hp : t.p ≤ b) :
    (∃ t' rest, walkSymbols nodes count d b bits t = .ok (t', rest) ∧ t'.rev.length = d ∧ t'.w = d ∧ t'.p ≤ b ∧
      t'.p + rest.length = t.p + bits.length) ∨
    (∃ w, walkSymbols nodes count d b bits t = .error (lengthEnding w)) ∨
    (∃ x, walkSymbols nodes count d b bits t = .error (corruptNode nodes x)) := by
  induction bits generalizing t with
  | nil =>
    simp only [walkSymbols]
    split
    · exact .inr (.inl ⟨_, rfl⟩)
    · exact .inl ⟨t, [], rfl, by omega, by omega, hp, rfl⟩
  | cons bit rest ih =>
    simp only [walkSymbols]
    split
    · rename_i hlt
      split
      · exact .inr (.inl ⟨_, rfl⟩)
      · cases hc : checkedChild nodes count t.cur bit with
        | error e => exact .inr (.inr ⟨t.cur, by rw [checkedChild_error hc]⟩)
        | ok child =>
          simp only
          split
          · rcases @ih { p := t.p + 1, cur := 0, w := t.w + 1, rev := (nodeAt nodes child).value :: t.rev } (by simp [hl])
                (by simpa using hlt) (by simp; omega) with ⟨t', r, h1, h2, h3, h4, h5⟩ | h | h
            · refine .inl ⟨t', r, h1, h2, h3, h4, ?_⟩
              simp only [List.length_cons] at h5 ⊢
              omega
            · exact .inr (.inl h)
            · exact .inr (.inr h)
          · rcases @ih { t with p := t.p + 1, cur := child } hl hw (by simp; omega) with ⟨t', r, h1, h2, h3, h4, h5⟩ | h | h
            · refine .inl ⟨t', r, h1, h2, h3, h4, ?_⟩
              simp only [List.length_cons] at h5 ⊢
              omega
            · exact .inr (.inl h)
            · exact .inr (.inr h)
    · exact .inl ⟨t, bit :: rest, rfl, by omega, by omega, hp, rfl⟩

/-- The second loop fails with E_CORRUPT only. -/
theorem finishByte_error {nodes : List TreeNode} {count : Nat} {bits : List Bool} {p cur : Nat} {e : Ending}
    (h : finishByte nodes count bits p cur = .error e) : ∃ x, e = corruptNode nodes x := by
  induction bits generalizing p cur with
  | nil => simp [finishByte] at h
  | cons bit rest ih =>
    simp only [finishByte] at h
    split at h
    · cases h
    · split at h
      · rename_i hc
        cases h
        exact ⟨cur, checkedChild_error hc⟩
      · exact ih h

/-- The whole walk ends with D symbols within B bits, with E_LENGTH, or with E_CORRUPT. -/
theorem treeWalk_cases (nodes : List TreeNode) (count d b : Nat) (bits : List Bool) :
    (∃ w fin, treeWalk nodes count d b bits = .ok (w, fin) ∧ w.rev.length = d ∧ w.w = d ∧ w.p ≤ b) ∨
    (∃ w, treeWalk nodes count d b bits = .error (lengthEnding w)) ∨
    (∃ x, treeWalk nodes count d b bits = .error (corruptNode nodes x)) := by
  unfold treeWalk
  rcases walkSymbols_cases (nodes := nodes) (count := count) (d := d) (b := b) (bits := bits)
      (t := { p := 0, cur := 0, w := 0, rev := [] }) rfl (Nat.zero_le _) (Nat.zero_le _) with
    ⟨t, rest, h, h1, h2, h3, _⟩ | ⟨w, h⟩ | ⟨x, h⟩
  · simp only [h]
    split
    · rename_i e he
      split at he
      · obtain ⟨x, rfl⟩ := finishByte_error he
        exact .inr (.inr ⟨x, rfl⟩)
      · cases he
    · exact .inl ⟨t, _, rfl, h1, h2, h3⟩
  · exact .inr (.inl ⟨w, by simp only [h]⟩)
  · exact .inr (.inr ⟨x, by simp only [h]⟩)

end Machine
end Sys2Proof
end

