-- ==== Sys2Proof/Laws/Step.lean ====
section
/-! SUPPORT. What one step of the machine can do (10_state.md R9): one lemma for `step`, one for the sequencer's move, one for `exec`. -/

namespace Sys2Proof
namespace Machine

/-- A command always completes. -/
theorem exec_next (i : Instr) (s : State) : exec i s = .next ((runOf i s).state.finish i.opcode (runOf i s).ending) :=
  exec_eq_next.2 rfl

/-! ## Endings -/

/-- TREE_DECODE ends with success, E_LENGTH, E_CORRUPT or E_SEQ (44_decode.md R130). -/
theorem treeDecodeRun_ending (s : State) :
    (treeDecodeRun s).ending = Ending.success ∨ (∃ w, (treeDecodeRun s).ending = lengthEnding w) ∨
      (treeDecodeRun s).ending.code = .corrupt ∨ (treeDecodeRun s).ending.code = .seq := by
  rcases treeDecodeRun_cases s with ⟨w, fin, _, _, h⟩ | ⟨e, _, he, h⟩ | ⟨_, h⟩
  · exact .inl (by rw [h]; rfl)
  · rcases treeWalk_cases s.tree.nodes s.counts.nodes.toNat s.decodedLen s.bitCount (streamBits s.stream) with
      ⟨w, fin, hw, _⟩ | ⟨w, hw⟩ | ⟨x, hw⟩
    · simp [hw] at he
    · exact .inr (.inl ⟨w, by rw [h]; rw [hw] at he; exact (Except.error.inj he).symm⟩)
    · refine .inr (.inr (.inl ?_))
      rw [h]
      rw [hw] at he
      rw [failDecode, ← Except.error.inj he]
      rfl
  · exact .inr (.inr (.inr (by rw [h]; rfl)))

/-- DECODE ends with success, E_LENGTH, E_CORRUPT, E_SEQ or E_BADARG (44_decode.md R116). -/
theorem decodeRun_ending (k : Nat) (s : State) :
    (decodeRun k s).ending = Ending.success ∨ (∃ w, (decodeRun k s).ending = lengthEnding w) ∨
      (decodeRun k s).ending.code = .corrupt ∨ (decodeRun k s).ending.code = .seq ∨ (decodeRun k s).ending.code = .badArg := by
  rcases decodeRun_cases k s with ⟨_, h⟩ | ⟨e, _, _, he, h⟩ | ⟨cs, _, _, _, h⟩ | ⟨_, _, h⟩
  · exact .inr (.inr (.inr (.inr (by rw [h]; rfl))))
  · exact .inr (.inr (.inl (by rw [h]; exact speculate_error he)))
  · have hf := (s.setWork { s.work with channels := cs }).merge_fits k
    rw [h]
    rcases mergeResult_cases (s.setWork { s.work with channels := cs }) k ((s.setWork { s.work with channels := cs }).merge k) with
      ⟨e, hr, _, hm⟩ | ⟨e, hr, _, hm⟩ | ⟨_, _, hm⟩ | ⟨_, _, hm⟩ <;> rw [hm]
    · rcases hf.raised e hr with ⟨w, rfl⟩ | hc
      · exact .inr (.inl ⟨w, rfl⟩)
      · exact .inr (.inr (.inl hc))
    · rcases hf.raised e hr with ⟨w, rfl⟩ | hc
      · exact .inr (.inl ⟨w, rfl⟩)
      · exact .inr (.inr (.inl hc))
    · exact .inl rfl
    · exact .inr (.inl ⟨_, rfl⟩)
  · exact .inr (.inr (.inr (.inl (by rw [h]; rfl))))

/-! ## Steps -/

/-- The sequencer's move: an idle one does nothing; a running command completes; an illegal word completes with E_BADCMD. -/
theorem sequencerStep_cases (s : State) :
    (s.sequencer = .idle ∧ sequencerStep s = .next s) ∨
    (∃ c i, s.sequencer = .running c ∧ decodeWord c = .ok i ∧ sequencerStep s = exec i s) ∨
    (∃ c e, s.sequencer = .running c ∧ decodeWord c = .error e ∧
      sequencerStep s = .next (s.finish (opField c) { code := .badCmd, info := c })) := by
  unfold sequencerStep State.fetched
  cases hs : s.sequencer with
  | idle => exact .inl ⟨rfl, rfl⟩
  | running c =>
    cases hd : decodeWord c with
    | ok i => exact .inr (.inl ⟨c, i, rfl, hd, by simp [hd]⟩)
    | error e => exact .inr (.inr ⟨c, e, rfl, hd, by simp [hd, completeIllegal, illegalRun, complete]⟩)

/-- Everything one step can do: the first pending event, or the sequencer's move. -/
theorem step_cases (s : State) :
    (s.events = [] ∧ step s = sequencerStep s) ∨
    (∃ es, s.events = .sequencer :: es ∧ step s = sequencerStep (s.withEvents es)) ∨
    (∃ n a es, s.events = .read n a :: es ∧ step s = .next (hostRead n a (s.withEvents es))) ∨
    (∃ n a v es, s.events = .write n a v :: es ∧ step s = .next (hostWrite n a v (s.withEvents es))) ∨
    (∃ es, s.events = .assertRst :: es ∧ step s = .next (s.withEvents es).hardwareReset) ∨
    (∃ es, s.events = .releaseRst :: es ∧ step s = .next ((s.withEvents es).setRst false)) := by
  unfold step
  split <;> simp [*]

/-- `s.finish` with no event pending, and the same with events: completion does not touch them. -/
theorem finish_withEvents (s : State) (es : List Event) (op : Byte) (e : Ending) :
    (s.withEvents es).finish op e = (s.finish op e).withEvents es := rfl

end Machine
end Sys2Proof
end

