-- ==== Sys2Proof/Laws/Tables.lean ====
section
/-! SUPPORT. Nodes and slots as bytes: TREE_MEM reads back the nodes that were written (42_tree.md R99), a walk through a byte emits at
most 8 symbols (43_tables.md R109), a slot has 16 bytes and the tables have 45056 (R107, R112). -/

namespace Sys2Proof
namespace Machine

/-! ## Nodes -/

/-- The bytes of nodes read back as these nodes (R99). -/
@[simp] theorem nodesOf_flatMap_toBytes (nodes : List TreeNode) : nodesOf (nodes.flatMap TreeNode.toBytes) = nodes := by
  induction nodes with
  | nil => rfl
  | cons n ns ih => simp [TreeNode.toBytes, nodesOf, ih]

theorem flatMap_toBytes_length (nodes : List TreeNode) : (nodes.flatMap TreeNode.toBytes).length = 4 * nodes.length := by
  induction nodes with
  | nil => rfl
  | cons n ns ih => simp only [List.flatMap_cons, List.length_append, ih, List.length_cons, TreeNode.toBytes, List.length_nil]; omega

theorem treeEntries_length {nodes : List TreeNode} (h : nodes.length ≤ Config.maxNodes) : (treeEntries nodes).length = Config.maxNodes := by
  simp only [treeEntries, List.length_append, List.length_replicate]
  omega

/-- The image of at most 23 nodes has the size of TREE_MEM (20_memory.md R47). -/
theorem treeImage_length {nodes : List TreeNode} (h : nodes.length ≤ Config.maxNodes) : (treeImage nodes).length = Config.treeBytes := by
  rw [treeImage, flatMap_toBytes_length, treeEntries_length h]
  rfl

/-- TREE_MEM after BUILD_TREE's write holds the nodes and the unused entries (R99). -/
theorem nodes_put_treeImage (m : Memory) {nodes : List TreeNode} (h : nodes.length ≤ Config.maxNodes) :
    (m.put 0 (treeImage nodes)).nodes = treeEntries nodes := by
  have e := m.bytes_put_self 0 (treeImage nodes)
  rw [treeImage_length h] at e
  rw [Memory.nodes, e, treeImage, nodesOf_flatMap_toBytes]

/-! ## Slots -/

theorem walkBit_emitted_length (nodes : List TreeNode) (w : Walk) (i : Nat) (bit : Bool) :
    (walkBit nodes w i bit).emitted.length ≤ w.emitted.length + 1 := by
  unfold walkBit
  simp only
  split <;> simp

/-- The walk records one end for every symbol (43_tables.md R106). -/
theorem walkBit_ends_length {nodes : List TreeNode} {w : Walk} (h : w.ends.length = w.emitted.length) (i : Nat) (bit : Bool) :
    (walkBit nodes w i bit).ends.length = (walkBit nodes w i bit).emitted.length := by
  unfold walkBit
  simp only
  split <;> simp [h]

/-- A slot emits at most 8 symbols (43_tables.md R109). -/
theorem slotFn_syms_length (nodes : List TreeNode) (st : Nat) (v : Byte) : (slotFn nodes st v).syms.length ≤ 8 := by
  have go : ∀ (is : List Nat) (w : Walk),
      (is.foldl (fun w i => walkBit nodes w i (v.getLsbD i)) w).emitted.length ≤ w.emitted.length + is.length := by
    intro is
    induction is with
    | nil => intro w; simp
    | cons i is ih =>
      intro w
      have h1 := ih (walkBit nodes w i (v.getLsbD i))
      have h2 := walkBit_emitted_length nodes w i (v.getLsbD i)
      simp only [List.foldl_cons, List.length_cons]
      omega
  have := go [7, 6, 5, 4, 3, 2, 1, 0] { cur := nodeOfState nodes st, emitted := [], ends := [] }
  simpa [slotFn, walkByte] using this

/-- The next state of a slot is a byte of TREE_MEM. -/
theorem slotFn_next_lt (nodes : List TreeNode) (st : Nat) (v : Byte) : (slotFn nodes st v).next < 256 :=
  (nodeAt nodes (walkByte nodes (nodeOfState nodes st) v).cur).value.isLt

/-- A slot has 16 bytes (43_tables.md R107). -/
theorem slotImage_length {e : Slot} (h : e.syms.length ≤ 8) : (slotImage e).length = 16 := by
  simp only [slotImage, Config.maxEmit, List.length_append, List.length_replicate, List.length_cons, List.length_nil]
  omega

theorem slotBytesOf_length (nodes : List TreeNode) (states st v : Nat) : (slotBytesOf nodes states st v).length = 16 := by
  unfold slotBytesOf
  split
  · exact slotImage_length (slotFn_syms_length _ _ _)
  · simp [Config.slotBytes]

/-- Blocks of one length: where block i of a concatenation stands. -/
theorem flatMap_range_block {α : Type} (f : Nat → List α) (w : Nat) (hf : ∀ i, (f i).length = w) {n i : Nat} (h : i < n) :
    (((List.range n).flatMap f).drop (i * w)).take w = f i := by
  have len : ∀ k, ((List.range k).flatMap f).length = k * w := by
    intro k
    induction k with
    | zero => simp
    | succ k ih => simp only [List.range_succ, List.flatMap_append, List.length_append, ih, List.flatMap_singleton, hf]; ring
  obtain ⟨r, rfl⟩ : ∃ r, n = i + 1 + r := ⟨n - (i + 1), by omega⟩
  rw [List.range_add, List.flatMap_append, List.range_succ, List.flatMap_append, List.append_assoc,
    List.drop_left' (len i), List.flatMap_singleton, List.take_left' (hf i)]

theorem flatMap_range_length {α : Type} (f : Nat → List α) (w : Nat) (hf : ∀ i, (f i).length = w) (n : Nat) :
    ((List.range n).flatMap f).length = n * w := by
  induction n with
  | zero => simp
  | succ n ih => simp only [List.range_succ, List.flatMap_append, List.length_append, ih, List.flatMap_singleton, hf]; ring

/-- The tables have 45056 bytes (43_tables.md R112). -/
theorem tableImage_length (nodes : List TreeNode) (states : Nat) : (tableImage nodes states).length = Config.tableBytes := by
  rw [tableImage, flatMap_range_length _ (256 * 16)]
  · rfl
  · exact fun st => flatMap_range_length _ 16 (slotBytesOf_length nodes states st) 256

/-- Slot (st, v) of the tables stands at offset (st·256 + v)·16 (43_tables.md R107, R112). -/
theorem tableImage_slot (nodes : List TreeNode) (states : Nat) {st v : Nat} (hs : st < Config.maxStates) (hv : v < 256) :
    ((tableImage nodes states).drop ((st * 256 + v) * 16)).take 16 = slotBytesOf nodes states st v := by
  have outer := flatMap_range_block (fun st => (List.range 256).flatMap (slotBytesOf nodes states st)) (256 * 16)
    (fun st => flatMap_range_length _ 16 (slotBytesOf_length nodes states st) 256) hs
  have inner := flatMap_range_block (slotBytesOf nodes states st) 16 (slotBytesOf_length nodes states st) hv
  have e1 : min 16 (256 * 16 - v * 16) = 16 := by omega
  have e2 : (st * 256 + v) * 16 = st * (256 * 16) + v * 16 := by ring
  rw [← inner, ← outer, List.drop_take, List.drop_drop, List.take_take, e1, e2]
  rfl

/-- The 16 bytes of a slot of TABLE_MEM after GEN_TABLES's write. -/
theorem bytes_put_tableImage (m : Memory) (nodes : List TreeNode) (states : Nat) {st v : Nat} (hs : st < Config.maxStates)
    (hv : v < 256) : (m.put 0 (tableImage nodes states)).bytes ((st * 256 + v) * 16) 16 = slotBytesOf nodes states st v := by
  rw [Memory.bytes_put_zero, tableImage_slot nodes states hs hv]
  rw [tableImage_length]
  simp only [Config.maxStates] at hs
  simp only [Config.tableBytes]
  omega

/-- The first 11 bytes of a slot as SLOT reads them: the symbols, then count, next state and mask (43_tables.md R107). -/
theorem slotImage_fields {e : Slot} (h : e.syms.length ≤ 8) :
    ((slotImage e).take 11).take e.syms.length = e.syms ∧ ((slotImage e).take 11).getD 8 0 = BitVec.ofNat 8 e.syms.length ∧
      ((slotImage e).take 11).getD 9 0 = BitVec.ofNat 8 e.next ∧ ((slotImage e).take 11).getD 10 0 = e.mask := by
  have len : (e.syms ++ List.replicate (Config.maxEmit - e.syms.length) 0).length = 8 := by
    simp only [List.length_append, List.length_replicate, Config.maxEmit]
    omega
  have at8 : ∀ k < 3, ((slotImage e).take 11).getD (8 + k) 0 =
      ([BitVec.ofNat 8 e.syms.length, BitVec.ofNat 8 e.next, e.mask, 0, 0, 0, 0, 0] : List Byte).getD k 0 := by
    intro k hk
    simp only [List.getD_eq_getElem?_getD, List.getElem?_take, slotImage]
    rw [if_pos (by omega), List.getElem?_append_right (by omega), len, Nat.add_sub_cancel_left]
  refine ⟨?_, at8 0 (by omega), at8 1 (by omega), at8 2 (by omega)⟩
  rw [List.take_take, Nat.min_eq_left (by omega), slotImage, List.append_assoc, List.take_left' rfl]

/-- SLOT reads back what GEN_TABLES wrote for a state in use, where the slot fits together (44_decode.md R118). -/
theorem readSlot_put_tableImage (m : Memory) (nodes : List TreeNode) {states st : Nat} (v : Byte) (hs : st < Config.maxStates)
    (hst : st < states) (hn : (slotFn nodes st v).next < states)
    (hm : (setBits (slotFn nodes st v).mask).length = (slotFn nodes st v).syms.length) :
    readSlot (m.put 0 (tableImage nodes states)) states st v = .ok (slotFn nodes st v) := by
  have hsyms := slotFn_syms_length nodes st v
  have hnext := slotFn_next_lt nodes st v
  have image : (m.put 0 (tableImage nodes states)).bytes ((st * 256 + v.toNat) * Config.slotBytes) 11 =
      (slotImage (slotFn nodes st v)).take 11 := by
    have whole := bytes_put_tableImage m nodes states hs v.isLt
    have split := Memory.bytes_append (m.put 0 (tableImage nodes states)) ((st * 256 + v.toNat) * 16) 11 5
    have slot : slotBytesOf nodes states st v.toNat = slotImage (slotFn nodes st v) := by simp [slotBytesOf, hst]
    rw [← slot, ← whole, split, List.take_left' (by simp)]
    rfl
  obtain ⟨hf, h8, h9, h10⟩ := slotImage_fields hsyms
  have e8 : (BitVec.ofNat 8 (slotFn nodes st v).syms.length).toNat = (slotFn nodes st v).syms.length := by simp; omega
  have e9 : (BitVec.ofNat 8 (slotFn nodes st v).next).toNat = (slotFn nodes st v).next := by simp; omega
  have ok : ¬ (states ≤ st ∨ Config.maxEmit < (slotFn nodes st v).syms.length ∨ states ≤ (slotFn nodes st v).next ∨
      (setBits (slotFn nodes st v).mask).length ≠ (slotFn nodes st v).syms.length) := by
    simp only [Config.maxEmit]
    omega
  simp only [readSlot, image, h8, h9, h10, e8, e9, hf, if_neg ok]

end Machine
end Sys2Proof
end

