-- ==== Sys2Proof/Laws/Tree.lean ====
section
/-! SUPPORT. Sizes of the heap, the node pool and the tree (42_tree.md R94 to R99): a push adds one entry, a pop removes one, the pool has
at most 2N − 1 nodes, and so the tree fits TREE_MEM. -/

namespace Sys2Proof
namespace Machine

@[simp] theorem heapSwap_length (h : List HeapEntry) (i j : Nat) : (heapSwap h i j).length = h.length := by
  simp [heapSwap]

@[simp] theorem siftUp_length (fuel i : Nat) (h : List HeapEntry) : (siftUp fuel i h).length = h.length := by
  induction fuel generalizing i h with
  | zero => rfl
  | succ fuel ih =>
    simp only [siftUp]
    split
    · rw [ih, heapSwap_length]
    · rfl

@[simp] theorem siftDown_length (fuel i : Nat) (h : List HeapEntry) : (siftDown fuel i h).length = h.length := by
  induction fuel generalizing i h with
  | zero => rfl
  | succ fuel ih =>
    simp only [siftDown]
    split
    · rfl
    · rw [ih, heapSwap_length]

/-- A push adds one entry (R94). -/
@[simp] theorem heapPush_length (h : List HeapEntry) (e : HeapEntry) : (heapPush h e).length = h.length + 1 := by
  simp [heapPush]

/-- A pop removes one entry (R95). -/
@[simp] theorem heapPop_length (h : List HeapEntry) : (heapPop h).2.length = h.length - 1 := by
  simp [heapPop]

/-- Seeding leaves one entry for every symbol (R96). -/
@[simp] theorem seedHeap_length (symbols : List SymEntry) : (seedHeap symbols).length = symbols.length := by
  have go : ∀ (ps : List (SymEntry × Nat)) (h : List HeapEntry),
      (ps.foldl (fun h p => heapPush h (seedEntry p.1 p.2)) h).length = h.length + ps.length := by
    intro ps
    induction ps with
    | nil => intro h; rfl
    | cons p ps ih =>
      intro h
      simp only [List.foldl_cons, ih, heapPush_length, List.length_cons]
      omega
  simp [seedHeap, go]

/-- A combining step removes one entry and adds one node (R97). -/
theorem combineOnce_lengths (h : List HeapEntry) (pool : List PoolNode) (hh : 1 < h.length) :
    (combineOnce h pool).1.length = h.length - 1 ∧ (combineOnce h pool).2.length = pool.length + 1 := by
  simp only [combineOnce, heapPush_length, heapPop_length, List.length_append, List.length_singleton, and_true]
  omega

/-- Combining adds fewer nodes than there were entries (R97). -/
theorem combine_pool_length (fuel : Nat) (h : List HeapEntry) (pool : List PoolNode) :
    (combine fuel h pool).2.length ≤ pool.length + (h.length - 1) := by
  induction fuel generalizing h pool with
  | zero => exact Nat.le_add_right _ _
  | succ fuel ih =>
    simp only [combine]
    split
    · rename_i hh
      have := ih (combineOnce h pool).1 (combineOnce h pool).2
      have := combineOnce_lengths h pool hh
      omega
    · exact Nat.le_add_right _ _

theorem breadthFirst_length (pool : List PoolNode) (fuel : Nat) (queue : List Nat) : (breadthFirst pool fuel queue).length ≤ fuel := by
  induction fuel generalizing queue with
  | zero => exact Nat.le_refl _
  | succ fuel ih =>
    cases queue with
    | nil => simp [breadthFirst]
    | cons x queue => simpa [breadthFirst] using ih (queue ++ poolChildren pool x)

/-- The tree of N symbols has at most N + (N − 1) nodes. -/
theorem treeOf_length (symbols : List SymEntry) : (treeOf symbols).length ≤ symbols.length + (symbols.length - 1) := by
  have h1 := combine_pool_length symbols.length (seedHeap symbols) (leaves symbols)
  have h2 := breadthFirst_length (grownTree symbols).2 (grownTree symbols).2.length [rootOf (grownTree symbols).1]
  simp only [seedHeap_length, leaves, List.length_map] at h1
  simp only [treeOf, layoutTree, List.length_map]
  exact Nat.le_trans h2 h1

/-- SYMTAB[0..N−1] has at most 12 entries. -/
theorem symbols_length (s : State) : s.symbols.length ≤ 12 := by
  simp [State.symbols]

/-- The tree of the symbol table fits TREE_MEM (00_scope.md R5). -/
theorem treeOf_symbols_length (s : State) : (treeOf s.symbols).length ≤ Config.maxNodes := by
  have h1 := treeOf_length s.symbols
  have h2 := symbols_length s
  simp only [Config.maxNodes]
  omega

end Machine
end Sys2Proof
end

