-- ==== Sys2Proof/Tests/Slice0.lean ====
section
/-! SUPPORT. Tests of the model, with results taken from spec/95_test_vectors.md or worked out by hand from the rules, and one witness for
every statement with hypotheses: a concrete state and operands that meet all of them. -/

namespace Sys2Proof
namespace Machine
namespace Tests

set_option Elab.async false

/-! ## Packets and states (95_test_vectors.md §1.1, §3.2) -/

/-- 32-bit words as bytes. -/
def wordsOf (ws : List Nat) : List Byte := ws.flatMap (toBytes 4)

/-- The reset state with the words of a packet in PKT_MEM and `len` in PKT_LEN. -/
def loaded (ws : List Nat) (len : Word) : State :=
  { State.reset with pkt := { era := 0, cells := numbered 0 (wordsOf ws) }, pktLen := len }

/-- The state after the completion of a command. -/
def after (i : Instr) (s : State) : State := (runOf i s).state.finish i.opcode (runOf i s).ending

/-- `after` is what `exec` answers. -/
theorem exec_after (i : Instr) (s : State) : exec i s = .next (after i s) := exec_next i s

/-- The packet N2: '0' three times and '1' once; the message is 0100. -/
def n2Words : List Nat :=
  [0x00000029, 0x00000000, 0x00000002, 0x00000003, 0x00000030, 0x00000001, 0x00000031, 0x00000004, 0x00000001, 0x00000004,
    0x000000B0]

/-- N2 with word i replaced. -/
def n2With (i v : Nat) : State := loaded (n2Words.set i v) 41

/-- The packet N3: a, b and c once each; the message is abcab. -/
def n3Words : List Nat :=
  [0x00000031, 0x00000000, 0x00000003, 0x00000001, 0x00000061, 0x00000001, 0x00000062, 0x00000001, 0x00000063, 0x00000008,
    0x00000001, 0x00000005, 0x0000009C]

/-- The fixture packet. -/
def fixtureWords : List Nat :=
  [0x00000088, 0x00000000, 0x0000000C, 0x00000006, 0x0000002D, 0x0000000B, 0x00000030, 0x00000003, 0x00000031, 0x00000001,
    0x00000032, 0x00000002, 0x00000033, 0x00000001, 0x00000034, 0x00000006, 0x00000035, 0x00000002, 0x00000036, 0x00000002,
    0x00000037, 0x00000003, 0x00000038, 0x00000001, 0x00000039, 0x00000002, 0x0000007C, 0x00000080, 0x00000010, 0x00000028,
    0xFF7390E5, 0xD11B7AF4, 0x3067CBF2, 0xA35A2B99]

/-- The fixture's symbol table. -/
def fixtureSymbols : List SymEntry :=
  [⟨6, 0x2D⟩, ⟨11, 0x30⟩, ⟨3, 0x31⟩, ⟨1, 0x32⟩, ⟨2, 0x33⟩, ⟨1, 0x34⟩, ⟨6, 0x35⟩, ⟨2, 0x36⟩, ⟨2, 0x37⟩, ⟨3, 0x38⟩, ⟨1, 0x39⟩, ⟨2, 0x7C⟩]

/-- The deep tree's symbol table FIB (95_test_vectors.md §3.4). -/
def fibSymbols : List SymEntry :=
  [⟨1, 0x30⟩, ⟨1, 0x31⟩, ⟨2, 0x32⟩, ⟨3, 0x33⟩, ⟨5, 0x34⟩, ⟨8, 0x35⟩, ⟨13, 0x36⟩, ⟨21, 0x37⟩, ⟨34, 0x38⟩, ⟨55, 0x39⟩, ⟨89, 0x2D⟩,
    ⟨144, 0x7C⟩]

/-- N2 in its four phases. -/
def n2 : State := loaded n2Words 41
def n2Parsed : State := after .parse n2
def n2Tree : State := after .buildTree n2Parsed
def n2Tables : State := after .genTables n2Tree

/-- N2 with B = 3: the fourth symbol ends after the bitstream. -/
def shortTree : State := after .buildTree (after .parse (n2With 7 3))
def shortTables : State := after .genTables shortTree

/-- N2 with pad bits 0101 in place of 0000. -/
def padTree : State := after .buildTree (after .parse (n2With 10 0xB5))

/-- A state that no run reaches: PHASE = TABLES with a slot (0, 0) of count 9, and the bitstream 00. -/
def badSlot : State :=
  { State.reset with
    status := { State.reset.status with phase := .tables }
    hdr := { State.reset.hdr with bits := 8, decLen := 1 }
    counts := { nodes := 3, states := 1, maxCodeLen := 1 }
    pkt := { era := 0, cells := [(24, 0x00)] }
    table := { era := 3, cells := numbered 0 [0, 0, 0, 0, 0, 0, 0, 0, 9, 0, 0xFF] } }

/-- N3's tree: code words b = 0, a = 10, c = 11. -/
def n3Nodes : List TreeNode := treeEntries (treeOf [⟨1, 0x61⟩, ⟨1, 0x62⟩, ⟨1, 0x63⟩])

/-- The slot of N3's tables for state `st` and byte `v`, as cells. -/
def n3Slot (st v : Nat) : List Host.Cell := numbered ((st * 256 + v) * 16) (slotImage (slotFn n3Nodes st (BitVec.ofNat 8 v)))

/-- PHASE = TABLES with N3's slots of three bytes, the bitstream 01 00 01 FF and a decoded length: with K = 4 the true state before
each segment is 0, 1, 0, 1. -/
def fourBytes (d limit : Word) : State :=
  { State.reset with
    status := { State.reset.status with phase := .tables }
    convLimit := limit
    hdr := { State.reset.hdr with nsym := 3, bits := 32, decLen := d }
    counts := { nodes := 5, states := 2, maxCodeLen := 2 }
    pkt := { era := 0, cells := numbered 48 [0x01, 0x00, 0x01, 0xFF] }
    table := { era := 3, cells := n3Slot 0 0x00 ++ n3Slot 0 0x01 ++ n3Slot 0 0xFF ++ n3Slot 1 0x00 ++ n3Slot 1 0x01 ++ n3Slot 1 0xFF } }

/-- The reset state with one event pending. -/
def withEvent (e : Event) : State := { State.reset with events := [e] }

/-- The reset state after acceptance of a command word. -/
def busyWith (c : Word) : State := State.reset.accept c

/-! ## Ill-formed commands (30_encoding.md R69, R71, R78) -/

theorem test_wf_refuses_wide_count : (Instr.decode 16).wf = false ∧ (Instr.decodePacket 16).wf = false := by decide

theorem test_assemblable_refuses_count :
    (Instr.decode 0).assemblable = false ∧ (Instr.decode 16).assemblable = false ∧ (Instr.decodePacket 0).assemblable = false := by
  decide

/-! ## Command words written out from 30_encoding.md R69 and R70 -/

theorem test_word_nop : decodeWord 0b00000000000000000000_0000_00000000 = .ok .nop := by decide

theorem test_word_parse : decodeWord 0b00000000000000000000_0000_00000001 = .ok .parse := by decide

theorem test_word_build_tree : decodeWord 0b00000000000000000000_0000_00000010 = .ok .buildTree := by decide

theorem test_word_gen_tables : decodeWord 0b00000000000000000000_0000_00000011 = .ok .genTables := by decide

theorem test_word_decode : decodeWord 0b00000000000000000000_1011_00000100 = .ok (.decode 11) := by decide

theorem test_word_tree_decode : decodeWord 0b00000000000000000000_0000_00000101 = .ok .treeDecode := by decide

theorem test_word_heap_order : decodeWord 0b00000000000000000000_0000_00000110 = .ok .heapOrder := by decide

theorem test_word_decode_packet : decodeWord 0b00000000000000000000_0010_00000111 = .ok (.decodePacket 2) := by decide

theorem test_word_clear : decodeWord 0b00000000000000000000_0000_00001000 = .ok .clear := by decide

theorem test_words_illegal :
    decodeWord 0x00000009 = .error (.reservedOpcode 0x09) ∧ decodeWord 0x000000FF = .error (.reservedOpcode 0xFF) ∧
    decodeWord 0x00000100 = .error .channelCount ∧ decodeWord 0x00000F08 = .error .channelCount ∧
    decodeWord 0x00001004 = .error .reservedBits ∧ decodeWord 0x80000001 = .error .reservedBits := by decide

theorem test_assembler :
    AsmCommand.assemble { mnemonic := "DECODE", count := some 4 } = some 0x00000404 ∧
    AsmCommand.assemble { mnemonic := "DECODE_PACKET", count := some 1 } = some 0x00000107 ∧
    AsmCommand.assemble { mnemonic := "PARSE", count := none } = some 0x00000001 ∧
    AsmCommand.assemble { mnemonic := "DECODE", count := none } = none ∧
    AsmCommand.assemble { mnemonic := "NOP", count := some 1 } = none := by decide +kernel

/-! ## Commands (95_test_vectors.md §3) -/

/-- C.1: NOP from reset leaves STATUS 0x00000002. -/
theorem test_nop_status : (after .nop State.reset).statusWord = 0x00000002 := by decide +kernel

/-- N2's PARSE: STATUS 0x01000102, B = 4, E = 1, D = 4. -/
theorem test_parse_n2 :
    n2Parsed.statusWord = 0x01000102 ∧ n2Parsed.hdr = { totalLo := 41, totalHi := 0, nsym := 2, bits := 4, encLen := 1, decLen := 4 } ∧
    n2Parsed.symbols = [⟨3, 0x30⟩, ⟨1, 0x31⟩] := by decide +kernel

/-- P.9: T = 2^32 fails check 3, the full 64 bits are compared; STATUS 0x01010006. -/
theorem test_parse_total_is_64_bits :
    (after .parse (n2With 1 1)).statusWord = 0x01010006 ∧ (after .parse (n2With 1 1)).errInfo = 3 := by decide +kernel

/-- N3's tree: 02010000 00006201 04030100 00006101 00006301, MAX_CODE_LEN 2. -/
theorem test_build_tree_n3 :
    (after .buildTree (after .parse (loaded n3Words 49))).tree.bytes 0 24 =
      wordsOf [0x02010000, 0x00006201, 0x04030100, 0x00006101, 0x00006301, 0x000000FF] ∧
    (after .buildTree (after .parse (loaded n3Words 49))).counts = { nodes := 5, states := 2, maxCodeLen := 2 } := by decide +kernel

/-- The fixture's tree: STATUS 0x02000202, MAX_CODE_LEN 6, and its first and last nodes. -/
theorem test_build_tree_fixture :
    (treeImage (treeOf fixtureSymbols)).take 16 = wordsOf [0x02010000, 0x04030100, 0x06050200, 0x08070300] ∧
    (treeImage (treeOf fixtureSymbols)).drop 72 = wordsOf [0x14130900, 0x00003401, 0x16150A00, 0x00003201, 0x00003901] ∧
    deepestLeaf (grownTree fixtureSymbols).2 (rootOf (grownTree fixtureSymbols).1) = 6 := by decide +kernel

/-- The fixture's slots (0, E5), whose bytes 43_tables.md R112 writes out (log 14), and (10, D1). -/
theorem test_slots_fixture :
    slotImage (slotFn (treeEntries (treeOf fixtureSymbols)) 0 0xE5) =
      [0x35, 0x33, 0x00, 0x00, 0x00, 0x00, 0x00, 0x00, 0x02, 0x02, 0x22, 0x00, 0x00, 0x00, 0x00, 0x00] ∧
    slotImage (slotFn (treeEntries (treeOf fixtureSymbols)) 10 0xD1) =
      [0x39, 0x30, 0x30, 0x00, 0x00, 0x00, 0x00, 0x00, 0x03, 0x06, 0xA8, 0x00, 0x00, 0x00, 0x00, 0x00] := by decide +kernel

/-- The deep tree's slots (0, FF), with count 0 and next 8, and (3, FF). -/
theorem test_slots_deep_tree :
    slotFn (treeEntries (treeOf fibSymbols)) 0 0xFF = { syms := [], next := 8, mask := 0x00 } ∧
    slotFn (treeEntries (treeOf fibSymbols)) 3 0xFF = { syms := [0x31], next := 0, mask := 0x01 } := by decide +kernel

/-- N2's tables: the slot (0, B0) is 30 31 30 30 31 31 31 31 | 08 00 FF; STATUS 0x03000302. -/
theorem test_gen_tables_n2 :
    n2Tables.statusWord = 0x03000302 ∧
    n2Tables.table.bytes (0xB0 * 16) 11 = [0x30, 0x31, 0x30, 0x30, 0x31, 0x31, 0x31, 0x31, 0x08, 0x00, 0xFF] := by decide +kernel

/-- An unused state's slot is 16 zero bytes: N2 has one state. -/
theorem test_gen_tables_unused : slotBytesOf (treeEntries (treeOf n2Parsed.symbols)) 1 1 0x00 = List.replicate 16 0 := by
  decide +kernel

/-- DECODE K=2 of N2: "0100", BITS_USED 4, FINAL_STATE 0, CH_CONV 0 and 0, then SKIPPED. -/
theorem test_decode_n2 :
    (after (.decode 2) n2Tables).out.bytes 0 4 = [0x30, 0x31, 0x30, 0x30] ∧
    (after (.decode 2) n2Tables).results = { outCount := 4, bitsUsed := 4, finalState := 0 } ∧
    (after (.decode 2) n2Tables).conv.conv.toList.take 3 = [0, 0, 0xFFFFFFFE] := by decide +kernel

/-- R124 by hand: segment 1 converges after 1 byte; segment 3 never does (cc… against c|c…); with D = 15 the last symbol ends with
segment 1 before its comparison; with D = 0 nothing is entered. -/
theorem test_convergence :
    (after (.decode 4) (fourBytes 26 0)).conv.conv.toList.take 5 = [0, 1, 0, 0xFFFFFFFF, 0xFFFFFFFE] ∧
    (after (.decode 4) (fourBytes 15 0)).conv.conv.toList.take 4 = [0, 0xFFFFFFFF, 0xFFFFFFFE, 0xFFFFFFFE] ∧
    (after (.decode 4) (fourBytes 0 0)).conv.conv.toList.take 1 = [0xFFFFFFFE] := by decide +kernel

/-- P4: DECODE with PHASE = TREE is E_SEQ with ERR_INFO 2, STATUS 0x04060206. -/
theorem test_decode_phase :
    (after (.decode 2) n2Tree).statusWord = 0x04060206 ∧ (after (.decode 2) n2Tree).errInfo = 2 := by decide +kernel

/-- TREE_DECODE of N3: "abcab", BITS_USED 8. -/
theorem test_tree_decode_n3 :
    (after .treeDecode (after .buildTree (after .parse (loaded n3Words 49)))).out.bytes 0 5 = [0x61, 0x62, 0x63, 0x61, 0x62] ∧
    (after .treeDecode (after .buildTree (after .parse (loaded n3Words 49)))).results =
      { outCount := 5, bitsUsed := 8, finalState := 0 } := by decide +kernel

/-- N2 with B = 3: TREE_DECODE fails with E_LENGTH 3. -/
theorem test_tree_decode_length :
    (after .treeDecode shortTree).statusWord = 0x05040206 ∧ (after .treeDecode shortTree).errInfo = 3 := by decide +kernel

/-- HEAP_ORDER of N3: a, c, b. -/
theorem test_heap_order_n3 :
    (after .heapOrder (after .parse (loaded n3Words 49))).out.bytes 0 3 = [0x61, 0x63, 0x62] ∧
    (after .heapOrder (after .parse (loaded n3Words 49))).results.outCount = 3 := by decide +kernel

/-- The pop order the source gives for the fixture: 50, 57, 52, 54, 55, 51, 124, 56, 49, 53, 45, 48. -/
theorem test_heap_order_fixture :
    orderedSymbols fixtureSymbols (seedHeap fixtureSymbols) = [50, 57, 52, 54, 55, 51, 124, 56, 49, 53, 45, 48] := by decide +kernel

/-- P4: DECODE_PACKET of N2 with B = 3 is E_LENGTH 3 with PHASE = TABLES, STATUS 0x07040306. -/
theorem test_decode_packet_length :
    (after (.decodePacket 1) (n2With 7 3)).statusWord = 0x07040306 ∧ (after (.decodePacket 1) (n2With 7 3)).errInfo = 3 ∧
    (after (.decodePacket 1) (n2With 7 3)).conv.start.toList.take 2 = [0, 1] := by decide +kernel

/-- C.16: DECODE_PACKET from reset is E_TRUNCATED 1, STATUS 0x07010006. -/
theorem test_decode_packet_reset :
    (after (.decodePacket 1) State.reset).statusWord = 0x07010006 ∧ (after (.decodePacket 1) State.reset).errInfo = 1 := by
  decide +kernel

/-- C.3: CLEAR leaves STATUS 0x08000002 and zeroes HDR_NSYM. -/
theorem test_clear : (after .clear n2Tree).statusWord = 0x08000002 ∧ (after .clear n2Tree).hdr.nsym = 0 := by decide +kernel

/-- C.7: the word 0x00001009 is E_BADCMD with the whole word as ERR_INFO, STATUS 0x09070006. -/
theorem test_illegal_word :
    ∃ t, sequencerStep (busyWith 0x00001009) = .next t ∧ t.statusWord = 0x09070006 ∧ t.errInfo = 0x00001009 :=
  ⟨_, rfl, by decide +kernel, by decide +kernel⟩

/-! ## The host port (95_test_vectors.md §2) -/

/-- V2.1, V2.3, V2.4. -/
theorem test_constants :
    (hostRead 4 0x00000 State.reset).resp.data = 0x4D534648 ∧ (hostRead 4 0x00008 State.reset).resp.data = 0x170C0804 ∧
    (hostRead 4 0x0000C State.reset).resp.data = 0x00010000 := by decide +kernel

/-- V2.8, V2.12, V2.14, V2.17: the WARL length, a 16-bit register read, TREE_MEM above its end, a misaligned read. -/
theorem test_host_port :
    (hostWrite 4 0x0002C 0x00100000 State.reset).pktLen = 0x00010000 ∧
    (hostRead 2 0x00024 State.reset).resp = { err := true, data := 0 } ∧ (hostRead 2 0x00024 State.reset).status.busErr = true ∧
    (hostRead 4 0x0105C State.reset).resp = { err := false, data := 0 } ∧ (hostRead 2 0x20001 State.reset).resp.err = true := by
  decide +kernel

/-- V2.19: a word written to PKT+0 reads back as 44, 33, 22, 11. -/
theorem test_little_endian :
    (hostWrite 4 0x20000 0x11223344 State.reset).pkt.bytes 0 4 = [0x44, 0x33, 0x22, 0x11] ∧
    (hostRead 2 0x30002 (hostWrite 4 0x30000 0x11223344 State.reset)).resp.data = 0x1122 := by decide +kernel

/-- V2.10, V2.11: writing 0xFFFFFFFF to CTRL resets; writing 1 sets IRQ_EN. -/
theorem test_ctrl :
    (hostWrite 4 0x00020 0xFFFFFFFF (hostWrite 4 0x00020 1 n2Parsed)).irqEn = false ∧
    (hostWrite 4 0x00020 0xFFFFFFFF n2Parsed).status.phase = .empty ∧ (hostWrite 4 0x00020 1 n2Parsed).irqEn = true := by
  decide +kernel

/-- V2.23, V2.24: accesses while a command runs. -/
theorem test_busy :
    (hostWrite 4 0x00028 0 (busyWith 0x8)).status.cmdDrop = true ∧ (hostRead 4 0x20000 (busyWith 0x8)).status.accDrop = true ∧
    (hostRead 2 0x20001 (busyWith 0x8)).status.accDrop = false ∧ (hostRead 2 0x20001 (busyWith 0x8)).status.busErr = true := by
  decide +kernel

/-! ## The invariant in the four phases of N2 -/

theorem n2Parsed_inv : n2Parsed.Inv where
  params := by decide +kernel
  pktWf := by decide +kernel
  outWf := by decide +kernel
  treeWf := by decide +kernel
  tableWf := by decide +kernel
  pktLen := by decide +kernel
  symbolCount := by decide +kernel
  decodedLen := by decide +kernel
  outCount := by decide +kernel
  rstIdle := by decide +kernel
  workNone := by decide +kernel
  errShown := by decide +kernel
  infoZero := by decide +kernel
  latched _ := by constructor <;> decide +kernel
  built h := absurd h (by decide +kernel)
  tables h := absurd h (by decide +kernel)

theorem n2Tree_inv : n2Tree.Inv where
  params := by decide +kernel
  pktWf := by decide +kernel
  outWf := by decide +kernel
  treeWf := by decide +kernel
  tableWf := by decide +kernel
  pktLen := by decide +kernel
  symbolCount := by decide +kernel
  decodedLen := by decide +kernel
  outCount := by decide +kernel
  rstIdle := by decide +kernel
  workNone := by decide +kernel
  errShown := by decide +kernel
  infoZero := by decide +kernel
  latched _ := by constructor <;> decide +kernel
  built _ := by constructor <;> decide +kernel
  tables h := absurd h (by decide +kernel)

theorem padTree_inv : padTree.Inv where
  params := by decide +kernel
  pktWf := by decide +kernel
  outWf := by decide +kernel
  treeWf := by decide +kernel
  tableWf := by decide +kernel
  pktLen := by decide +kernel
  symbolCount := by decide +kernel
  decodedLen := by decide +kernel
  outCount := by decide +kernel
  rstIdle := by decide +kernel
  workNone := by decide +kernel
  errShown := by decide +kernel
  infoZero := by decide +kernel
  latched _ := by constructor <;> decide +kernel
  built _ := by constructor <;> decide +kernel
  tables h := absurd h (by decide +kernel)

/-- The tree of '0' three times and '1' once. -/
def n2Nodes : List TreeNode := treeEntries (treeOf [⟨3, 0x30⟩, ⟨1, 0x31⟩])

/-- GEN_TABLES on a state whose tree is N2's. -/
theorem genTables_n2 {s : State} (hp : s.phaseAtLeast .tree = true) (hc : s.counts.states.toNat = 1) (hn : s.tree.nodes = n2Nodes) :
    after .genTables s = (s.storeTables (tableImage n2Nodes 1)).finish 0x03 Ending.success := by
  rcases genTablesRun_cases s with ⟨_, h⟩ | ⟨h, _⟩
  · rw [after, runOf, h, hc, hn]
    rfl
  · rw [hp] at h
    cases h

/-- Its slots pass their check. -/
theorem genTables_n2_valid {s : State} (hp : s.phaseAtLeast .tree = true) (hc : s.counts.states.toNat = 1)
    (hn : s.tree.nodes = n2Nodes) : SlotsValid (after .genTables s).table 1 := by
  rw [genTables_n2 hp hc hn]
  intro st hst v
  obtain rfl : st = 0 := by omega
  have all : ∀ n < 256, (slotFn n2Nodes 0 (BitVec.ofNat 8 n)).next < 1 ∧
      (setBits (slotFn n2Nodes 0 (BitVec.ofNat 8 n)).mask).length = (slotFn n2Nodes 0 (BitVec.ofNat 8 n)).syms.length := by
    decide +kernel
  have one := all v.toNat v.isLt
  rw [BitVec.ofNat_toNat, BitVec.setWidth_eq] at one
  exact ⟨_, readSlot_put_tableImage s.table n2Nodes v (by decide) hst one.1 one.2⟩

theorem n2Tables_inv : n2Tables.Inv := by
  rw [n2Tables, genTables_n2 (by decide +kernel) (by decide +kernel) (by decide +kernel)]
  exact {
    params := by decide +kernel
    pktWf := by decide +kernel
    outWf := by decide +kernel
    treeWf := n2Tree_inv.treeWf
    tableWf := Memory.put_wf n2Tree_inv.tableWf (by rw [tableImage_length, Nat.zero_add])
    pktLen := by decide +kernel
    symbolCount := by decide +kernel
    decodedLen := by decide +kernel
    outCount := by decide +kernel
    rstIdle := by decide +kernel
    workNone := by decide +kernel
    errShown := by decide +kernel
    infoZero := by decide +kernel
    latched := fun _ => by constructor <;> decide +kernel
    built := fun _ => by constructor <;> decide +kernel
    tables := fun _ => ⟨by
      have e := n2Tree.table.bytes_put_self 0 (tableImage n2Nodes 1)
      rw [tableImage_length] at e
      have hs : n2Nodes = treeEntries (treeOf n2Tree.symbols) := by decide +kernel
      have hc : n2Tree.symbolCount - 1 = 1 := by decide +kernel
      show (n2Tree.table.put 0 (tableImage n2Nodes 1)).bytes 0 Config.tableBytes =
        tableImage (treeEntries (treeOf n2Tree.symbols)) (n2Tree.symbolCount - 1)
      rw [e, hs, hc]⟩ }

/-! ## Witnesses: encoding, acceptance, completion -/

theorem witness_DecodeOfEncode : (Instr.decode 15).wf = true ∧ (Instr.decodePacket 0).wf = true := by decide

theorem witness_EncodeOfDecode : decodeWord 0x00000F07 = .ok (.decodePacket 15) := by decide

theorem witness_OpcodeMapRows :
    decodeWord 0x00000F04 = .ok (.decode 15) ∧ (0x00000F04 : Word) &&& 0xFFFFF0FF = 0x00000004 ∧
    (0x00000007 : Word) &&& 0xFFFFF0FF = 0x00000007 := by decide

/-- One word for each of the three conditions of R72. -/
theorem witness_IllegalWordCompletesBadCmd :
    (withEvent (.write 4 0x00028 0x00000009)).rst = false ∧ (withEvent (.write 4 0x00028 0x00000009)).sequencer = .idle ∧
    (withEvent (.write 4 0x00028 0x00000009)).events = [.write 4 0x00028 0x00000009] ∧
    9 ≤ ((0x00000009 : Word) &&& 0xFF).toNat ∧ (0x00001004 : Word) >>> 12 ≠ 0 ∧
    (((0x00000100 : Word) >>> 8) &&& 0xF ≠ 0 ∧ (0x00000100 : Word) &&& 0xFF ≠ 4 ∧ (0x00000100 : Word) &&& 0xFF ≠ 7) := by
  decide +kernel

theorem witness_AssemblerWritesEncodings :
    (Instr.decode 15).assemblable = true ∧ Instr.nop.assemblable = true ∧
    AsmCommand.assemble { mnemonic := "DECODE_PACKET", count := some 15 } = some 0x00000F07 := by decide +kernel

theorem witness_StepRunsDecodedCommand :
    (busyWith 0x00000404).sequencer = .running 0x00000404 ∧ decodeWord 0x00000404 = .ok (.decode 4) ∧
    (busyWith 0x00000404).events = [] ∧
    ((busyWith 0x00000404).withEvents [.sequencer, .releaseRst]).events = .sequencer :: [.releaseRst] ∧
    decodeTableWord 8 0x01 = some .parse ∧ decodeTableWord 32 0x00000407 = some (.decodePacket 4) := by decide +kernel

theorem witness_CmdWriteAcceptsOrDrops :
    State.reset.rst = false ∧ State.reset.sequencer = .idle ∧ (busyWith 0x00000001).rst = false ∧
    (busyWith 0x00000001).busy = true := by decide +kernel

/-! ## Witnesses: PARSE, the heap, the tree, the tables -/

/-- The least symbol count, and the greatest one with D = OUT_BYTES. -/
theorem witness_ParseLatchesHeader :
    (2 = n2.le32 8 ∧ 12 ≤ n2.pktLen.toNat ∧ 24 + 8 * 2 ≤ n2.pktLen.toNat ∧ n2.le64 0 ≤ n2.pktLen.toNat ∧
      24 + 8 * 2 + n2.le32 (16 + 8 * 2) ≤ n2.pktLen.toNat ∧ n2.le32 (12 + 8 * 2) ≤ 8 * n2.le32 (16 + 8 * 2) ∧
      n2.le32 (20 + 8 * 2) ≤ n2.params.outBytes) ∧
    (let s := loaded (fixtureWords.set 29 65536) 136
     12 = s.le32 8 ∧ 12 ≤ s.pktLen.toNat ∧ 24 + 8 * 12 ≤ s.pktLen.toNat ∧ s.le64 0 ≤ s.pktLen.toNat ∧
      24 + 8 * 12 + s.le32 (16 + 8 * 12) ≤ s.pktLen.toNat ∧ s.le32 (12 + 8 * 12) ≤ 8 * s.le32 (16 + 8 * 12) ∧
      s.le32 (20 + 8 * 12) ≤ s.params.outBytes) := by decide +kernel

/-- One packet for each check, at the boundary. -/
theorem witness_ParseRejectsInOrder :
    (loaded n2Words 11).pktLen.toNat < 12 ∧
    (12 ≤ (loaded (n2Words.set 2 0) 12).pktLen.toNat ∧ (loaded (n2Words.set 2 0) 12).le32 8 = 0 ∧
      (loaded (n2Words.set 2 1) 12).le32 8 = 1 ∧ 12 < (loaded (n2Words.set 2 13) 12).le32 8) ∧
    (let s := loaded n2Words 39
     12 ≤ s.pktLen.toNat ∧ 2 ≤ s.le32 8 ∧ s.le32 8 ≤ 12 ∧ s.pktLen.toNat < 24 + 8 * s.le32 8) ∧
    (let s := loaded n2Words 40
     12 ≤ s.pktLen.toNat ∧ 2 ≤ s.le32 8 ∧ s.le32 8 ≤ 12 ∧ 24 + 8 * s.le32 8 ≤ s.pktLen.toNat ∧ s.pktLen.toNat < s.le64 0) ∧
    (let s := n2With 8 2
     12 ≤ s.pktLen.toNat ∧ 2 ≤ s.le32 8 ∧ s.le32 8 ≤ 12 ∧ 24 + 8 * s.le32 8 ≤ s.pktLen.toNat ∧ s.le64 0 ≤ s.pktLen.toNat ∧
      s.pktLen.toNat < 24 + 8 * s.le32 8 + s.le32 (16 + 8 * s.le32 8)) ∧
    (let s := n2With 7 9
     12 ≤ s.pktLen.toNat ∧ 2 ≤ s.le32 8 ∧ s.le32 8 ≤ 12 ∧ 24 + 8 * s.le32 8 ≤ s.pktLen.toNat ∧ s.le64 0 ≤ s.pktLen.toNat ∧
      24 + 8 * s.le32 8 + s.le32 (16 + 8 * s.le32 8) ≤ s.pktLen.toNat ∧
      8 * s.le32 (16 + 8 * s.le32 8) < s.le32 (12 + 8 * s.le32 8)) ∧
    (let s := n2With 9 65537
     12 ≤ s.pktLen.toNat ∧ 2 ≤ s.le32 8 ∧ s.le32 8 ≤ 12 ∧ 24 + 8 * s.le32 8 ≤ s.pktLen.toNat ∧ s.le64 0 ≤ s.pktLen.toNat ∧
      24 + 8 * s.le32 8 + s.le32 (16 + 8 * s.le32 8) ≤ s.pktLen.toNat ∧
      s.le32 (12 + 8 * s.le32 8) ≤ 8 * s.le32 (16 + 8 * s.le32 8) ∧ s.params.outBytes < s.le32 (20 + 8 * s.le32 8)) := by
  decide +kernel

theorem witness_HeapOrderWritesPopOrder : State.reset.status.phase.toNat < 1 ∧ 1 ≤ n2Parsed.status.phase.toNat := by decide +kernel

theorem witness_HeapOrderSortsSymbols : n2Parsed.Inv ∧ 1 ≤ n2Parsed.status.phase.toNat := ⟨n2Parsed_inv, by decide +kernel⟩

theorem witness_BuildTreeWritesTree : State.reset.status.phase.toNat < 1 ∧ 1 ≤ n2Parsed.status.phase.toNat := by decide +kernel

theorem witness_GenTablesWritesSlots : n2Parsed.status.phase.toNat < 2 ∧ 2 ≤ n2Tree.status.phase.toNat := by decide +kernel

/-- Two entries in order. -/
def smallHeap : List HeapEntry := [⟨1, 0⟩, ⟨1, 1⟩]

theorem smallHeap_ordered : HeapOrdered smallHeap := by
  intro i h1 h2
  have h2' : i < 2 := h2
  interval_cases i
  decide

theorem witness_HeapPushKeepsOrder : HeapOrdered smallHeap := smallHeap_ordered

theorem witness_HeapPopRemovesSmallest : smallHeap ≠ [] ∧ HeapOrdered smallHeap := ⟨by decide, smallHeap_ordered⟩

theorem witness_FrequencySumsAreExact :
    1 ≤ ([⟨0, 0⟩] : List SymEntry).length ∧ ([⟨0, 0⟩] : List SymEntry).length ≤ 12 ∧
    1 ≤ (List.replicate 12 (⟨0xFFFFFFFF, 0⟩ : SymEntry)).length ∧ (List.replicate 12 (⟨0xFFFFFFFF, 0⟩ : SymEntry)).length ≤ 12 := by
  decide

/-- A heap of two; the smallest and the largest symbol table. -/
theorem witness_BuiltTreeIsFull : (2 ≤ smallHeap.length ∧ HeapOrdered smallHeap) ∧
    2 ≤ n2Parsed.symbols.length ∧ n2Parsed.symbols.length ≤ 12 ∧ 2 ≤ fixtureSymbols.length ∧ fixtureSymbols.length ≤ 12 :=
  ⟨⟨by decide, smallHeap_ordered⟩, by decide +kernel⟩

theorem witness_BreadthFirstChildren :
    2 ≤ fibSymbols.length ∧ fibSymbols.length ≤ 12 ∧ ∃ x ∈ treeOf fibSymbols, x.isInternal = true ∧ x.value = 10 := by decide +kernel

theorem witness_CodeWordsArePrefixFree :
    2 ≤ n2Parsed.symbols.length ∧ n2Parsed.symbols.length ≤ 12 ∧ 2 ≤ fibSymbols.length ∧ fibSymbols.length ≤ 12 := by decide +kernel

theorem witness_SlotCountMaskNext : 2 ≤ fibSymbols.length ∧ fibSymbols.length ≤ 12 ∧ 10 < fibSymbols.length - 1 := by decide

/-- States 6 and 7 of the fixture (95_test_vectors.md §3.2). -/
theorem witness_BothLeavesTablesCopy :
    let nodes := treeEntries (treeOf fixtureSymbols)
    (∀ bit, (nodeAt nodes (childOf nodes (nodeOfState nodes 6) bit)).isLeaf = true) ∧
    (∀ bit, (nodeAt nodes (childOf nodes (nodeOfState nodes 7) bit)).isLeaf = true) := by decide +kernel

/-! ## Witnesses: decoding -/

theorem shortTables_valid : SlotsValid shortTables.table 1 :=
  genTables_n2_valid (by decide +kernel) (by decide +kernel) (by decide +kernel)

/-- A bitstream that holds the message, and one that is a bit short. -/
theorem witness_DecodeAgreesWithSingleChannel :
    (n2Tables.status.phase = .tables ∧ 2 ≤ n2Tables.params.kMax ∧ n2Tables.counts.states.toNat = 1 ∧ SlotsValid n2Tables.table 1 ∧
      ∃ m, seqDecode n2Tables = .ok (0, m)) ∧
    (shortTables.status.phase = .tables ∧ 4 ≤ shortTables.params.kMax ∧ shortTables.counts.states.toNat = 1 ∧
      SlotsValid shortTables.table 1 ∧ seqDecode shortTables = .error (lengthEnding 3)) := by
  refine ⟨⟨by decide +kernel, by decide +kernel, by decide +kernel,
    genTables_n2_valid (by decide +kernel) (by decide +kernel) (by decide +kernel),
    { w := 4, bits := 4, rev := [0x30, 0x30, 0x31, 0x30] }, by decide +kernel⟩, by decide +kernel, by decide +kernel,
    by decide +kernel, shortTables_valid, by decide +kernel⟩

theorem witness_InvalidSlotRaisesCorrupt :
    badSlot.status.phase = .tables ∧ 1 ≤ badSlot.params.kMax ∧
    speculate badSlot.table badSlot.counts.states.toNat (badSlot.segments 1) = .error { code := .corrupt, info := 0 } := by
  decide +kernel

theorem witness_TreeDecodeWritesWalk :
    (2 ≤ n2Tree.status.phase.toNat ∧
      treeWalk n2Tree.tree.nodes n2Tree.counts.nodes.toNat n2Tree.decodedLen n2Tree.bitCount (streamBits n2Tree.stream) =
        .ok ({ p := 4, cur := 0, w := 4, rev := [0x30, 0x30, 0x31, 0x30] }, 0)) ∧
    (2 ≤ shortTree.status.phase.toNat ∧
      treeWalk shortTree.tree.nodes shortTree.counts.nodes.toNat shortTree.decodedLen shortTree.bitCount
        (streamBits shortTree.stream) = .error (lengthEnding 3)) := by decide +kernel

theorem witness_DecodePacketRunsPipeline :
    (0x00000F07 : Word) &&& 0xFFFFF0FF = 0x00000007 ∧ n2.params.kMax < 5 ∧ 4 ≤ n2.params.kMax ∧
    readHeader n2 = .ok { total := 41, nsym := 2, bits := 4, encLen := 1, decLen := 4 } ∧
    readHeader State.reset = .error { code := .truncated, info := 1 } := by decide +kernel

theorem witness_DecodePacketDecodes :
    4 ≤ n2.params.kMax ∧ readHeader n2 = .ok { total := 41, nsym := 2, bits := 4, encLen := 1, decLen := 4 } ∧
    treeWalk (treeEntries (treeOf ((List.range 2).map n2.packetEntry))) (2 * 2 - 1) 4 4
      (streamBits (n2.pkt.bytes (24 + 8 * 2) ((4 + 7) / 8))) =
      .ok ({ p := 4, cur := 0, w := 4, rev := [0x30, 0x30, 0x31, 0x30] }, 0) := by decide +kernel

theorem witness_CountOutOfRangeIsBadArg :
    decodeWord 0x00000404 = .ok (.decode 4) ∧ decodeWord 0x00000F07 = .ok (.decodePacket 15) ∧
    State.reset.params.kMax < 5 ∧ 4 ≤ State.reset.params.kMax ∧ exec (.decode 4) State.reset = .next (after (.decode 4) State.reset) :=
  ⟨by decide, by decide, by decide, by decide, exec_after _ _⟩

/-- Below and at each requirement. -/
theorem witness_PhaseRequirements :
    State.reset.status.phase.toNat < 1 ∧ 1 ≤ n2Parsed.status.phase.toNat ∧ n2Parsed.status.phase.toNat < 2 ∧
    2 ≤ n2Tree.status.phase.toNat ∧ n2Tree.status.phase.toNat < 3 ∧ 3 ≤ n2Tables.status.phase.toNat ∧
    4 ≤ n2Tree.params.kMax ∧ exec (.decode 4) n2Tables = .next (after (.decode 4) n2Tables) :=
  ⟨by decide +kernel, by decide +kernel, by decide +kernel, by decide +kernel, by decide +kernel, by decide +kernel,
    by decide +kernel, exec_after _ _⟩

theorem witness_RefusedCommandChangesNothing :
    (exec .buildTree State.reset = .next (after .buildTree State.reset) ∧ (after .buildTree State.reset).status.errCode = .seq) ∧
    (exec (.decode 0) State.reset = .next (after (.decode 0) State.reset) ∧
      (after (.decode 0) State.reset).status.errCode = .badArg) ∧
    ((busyWith 0x00000009).events = [] ∧ (busyWith 0x00000009).sequencer = .running 0x00000009 ∧
      decodeWord 0x00000009 = .error (.reservedOpcode 0x09)) :=
  ⟨⟨exec_after _ _, by decide +kernel⟩, ⟨exec_after _ _, by decide +kernel⟩, by decide +kernel⟩

theorem witness_FailedDecodeEffects :
    (exec .treeDecode shortTree = .next (after .treeDecode shortTree) ∧ (after .treeDecode shortTree).status.errCode = .length) ∧
    (exec (.decode 1) badSlot = .next (after (.decode 1) badSlot) ∧ (after (.decode 1) badSlot).status.errCode = .corrupt) ∧
    (exec (.decodePacket 1) (n2With 7 3) = .next (after (.decodePacket 1) (n2With 7 3)) ∧
      (after (.decodePacket 1) (n2With 7 3)).status.errCode = .length) :=
  ⟨⟨exec_after _ _, by decide +kernel⟩, ⟨exec_after _ _, by decide +kernel⟩, exec_after _ _, by decide +kernel⟩

theorem witness_EveryCommandCompletes : exec .heapOrder n2Parsed = .next (after .heapOrder n2Parsed) ∧
    (after .heapOrder n2Parsed).status.errCode = .ok := ⟨exec_after _ _, by decide +kernel⟩

theorem witness_CommandsWriteOnlyTheirRows : exec .nop n2Tables = .next (after .nop n2Tables) ∧ Instr.nop ≠ .parse ∧
    Instr.nop ≠ .clear ∧ Instr.nop ≠ .buildTree ∧ Instr.nop ≠ .genTables ∧ Instr.nop ≠ .treeDecode ∧ Instr.nop ≠ .heapOrder ∧
    (∀ k, Instr.nop ≠ .decode k) ∧ ∀ k, Instr.nop ≠ .decodePacket k := by
  refine ⟨exec_after _ _, ?_⟩
  simp

theorem witness_OutputPastTheEndUnchanged :
    (exec (.decode 1) n2Tables = .next (after (.decode 1) n2Tables) ∧ n2Tables.decodedLen ≤ 4) ∧
    (exec .heapOrder n2Parsed = .next (after .heapOrder n2Parsed) ∧ n2Parsed.symbolCount ≤ 2) ∧
    (exec (.decodePacket 1) n2 = .next (after (.decodePacket 1) n2) ∧ (after (.decodePacket 1) n2).decodedLen ≤ 4) :=
  ⟨⟨exec_after _ _, by decide +kernel⟩, ⟨exec_after _ _, by decide +kernel⟩, exec_after _ _, by decide +kernel⟩

/-- With K = 2 over one byte, segment 0 is empty; one run succeeds and one fails with E_LENGTH. -/
theorem witness_SegmentsCoverTheStream :
    (exec (.decode 2) n2Tables = .next (after (.decode 2) n2Tables) ∧ (after (.decode 2) n2Tables).status.errCode = .ok) ∧
    (exec (.decode 2) shortTables = .next (after (.decode 2) shortTables) ∧
      (after (.decode 2) shortTables).status.errCode = .length) :=
  ⟨⟨exec_after _ _, by decide +kernel⟩, exec_after _ _, by decide +kernel⟩

/-- Entered segments with a count (0 and 1), with NONE and with SKIPPED; a limit of 1; a positive D and D = 0; E_LENGTH. -/
theorem witness_ConvergenceValues :
    (exec (.decode 4) (fourBytes 26 1) = .next (after (.decode 4) (fourBytes 26 1)) ∧
      (after (.decode 4) (fourBytes 26 1)).status.errCode = .ok ∧ 0 < (fourBytes 26 1).decodedLen ∧ (fourBytes 26 1).convLimit ≠ 0 ∧
      (after (.decode 4) (fourBytes 26 1)).conv.conv.toList.take 5 = [0, 1, 0, 0xFFFFFFFF, 0xFFFFFFFE] ∧
      (fourBytes 26 1).trueState 1 = some 1 ∧ (fourBytes 26 1).trueState 2 = some 0) ∧
    (exec (.decode 4) (fourBytes 0 0) = .next (after (.decode 4) (fourBytes 0 0)) ∧
      (after (.decode 4) (fourBytes 0 0)).status.errCode = .ok ∧ (fourBytes 0 0).decodedLen = 0) ∧
    (exec (.decode 4) (fourBytes 27 0) = .next (after (.decode 4) (fourBytes 27 0)) ∧
      (after (.decode 4) (fourBytes 27 0)).status.errCode = .length) :=
  ⟨⟨exec_after _ _, by decide +kernel, by decide +kernel, by decide +kernel, by decide +kernel, by decide +kernel, by decide +kernel⟩,
    ⟨exec_after _ _, by decide +kernel, by decide +kernel⟩, exec_after _ _, by decide +kernel⟩

/-- NONE with bytes left to compare: with K = 2 the second segment of 00 01 FF FF is entered in state 1 and stays apart. -/
theorem witness_ConvergenceValues_none :
    let s := { fourBytes 28 0 with pkt := { era := 0, cells := numbered 48 [0x00, 0x01, 0xFF, 0xFF] } }
    exec (.decode 2) s = .next (after (.decode 2) s) ∧ (after (.decode 2) s).status.errCode = .length ∧
    (after (.decode 2) s).conv.conv.toList.take 2 = [0, 0xFFFFFFFF] ∧ s.outputPending 3 ∧ 3 < s.streamLen := by
  refine ⟨exec_after _ _, by decide +kernel, by decide +kernel, ⟨19, by decide +kernel, by decide +kernel⟩, by decide +kernel⟩

/-- A message of four symbols, and one of none. -/
theorem witness_BitsUsedWithinStream :
    (exec (.decode 4) n2Tables = .next (after (.decode 4) n2Tables) ∧ (after (.decode 4) n2Tables).status.errCode = .ok) ∧
    (let s := after .buildTree (after .parse (n2With 9 0))
     exec .treeDecode s = .next (after .treeDecode s) ∧ (after .treeDecode s).status.errCode = .ok ∧ s.decodedLen = 0) :=
  ⟨⟨exec_after _ _, by decide +kernel⟩, exec_after _ _, by decide +kernel, by decide +kernel⟩

theorem witness_TreeDecodeAgreesWithDecode :
    n2Tables.Inv ∧ n2Tables.status.phase = .tables ∧ 4 ≤ n2Tables.params.kMax ∧
    exec (.decode 4) n2Tables = .next (after (.decode 4) n2Tables) ∧
    exec .treeDecode n2Tables = .next (after .treeDecode n2Tables) ∧ (after (.decode 4) n2Tables).status.errCode = .ok :=
  ⟨n2Tables_inv, by decide +kernel, by decide +kernel, exec_after _ _, exec_after _ _, by decide +kernel⟩

/-- The message 0100 with the code words 1, 0, 1, 1. -/
theorem witness_EncodedMessageDecodes :
    n2Tree.Inv ∧ 2 ≤ n2Tree.status.phase.toNat ∧
    (∀ p ∈ ([(0x30, [true]), (0x31, [false]), (0x30, [true]), (0x30, [true])] : List (Byte × List Bool)),
      p ∈ codeWords (treeOf n2Tree.symbols)) ∧
    4 = n2Tree.decodedLen ∧ [true, false, true, true] <+: (streamBits n2Tree.stream).take n2Tree.bitCount :=
  ⟨n2Tree_inv, by decide +kernel, by decide +kernel, by decide +kernel, by decide +kernel⟩

theorem witness_DecodeIsIdempotent :
    exec .treeDecode n2Tree = .next (after .treeDecode n2Tree) ∧
    exec .treeDecode (after .treeDecode n2Tree) = .next (after .treeDecode (after .treeDecode n2Tree)) ∧
    (after .treeDecode n2Tree).status.errCode = .ok :=
  ⟨exec_after _ _, exec_after _ _, by decide +kernel⟩

theorem witness_RetryFailsAgain :
    exec (.decodePacket 1) (n2With 7 3) = .next (after (.decodePacket 1) (n2With 7 3)) ∧
    (after (.decodePacket 1) (n2With 7 3)).status.errCode ≠ .ok ∧
    exec (.decodePacket 1) (after (.decodePacket 1) (n2With 7 3)) =
      .next (after (.decodePacket 1) (after (.decodePacket 1) (n2With 7 3))) :=
  ⟨exec_after _ _, by decide +kernel, exec_after _ _⟩

/-- N2 with pad bits 0000 and with pad bits 0101. -/
theorem witness_PadBitsDoNotMatter :
    n2Tree.Inv ∧ padTree.Inv ∧ n2Tree.params = padTree.params ∧ n2Tree.status.phase = padTree.status.phase ∧
    n2Tree.hdr = padTree.hdr ∧ n2Tree.symbols = padTree.symbols ∧ n2Tree.results = padTree.results ∧
    (streamBits n2Tree.stream).take n2Tree.bitCount = (streamBits padTree.stream).take n2Tree.bitCount ∧
    streamBits n2Tree.stream ≠ streamBits padTree.stream ∧
    exec .treeDecode n2Tree = .next (after .treeDecode n2Tree) ∧ exec .treeDecode padTree = .next (after .treeDecode padTree) ∧
    (after .treeDecode n2Tree).status.errCode = .ok :=
  ⟨n2Tree_inv, padTree_inv, by decide +kernel, by decide +kernel, by decide +kernel, by decide +kernel, by decide +kernel,
    by decide +kernel, by decide +kernel, exec_after _ _, exec_after _ _, by decide +kernel⟩

/-! ## Witnesses: the invariant -/

theorem witness_StepKeepsInvariant : n2Tables.Inv ∧ ∃ t, step n2Tables = .next t := ⟨n2Tables_inv, _, rfl⟩

theorem witness_TablesHoldSlotFunction :
    n2Tables.Inv ∧ n2Tables.status.phase = .tables ∧ 0 < n2Tables.counts.states.toNat :=
  ⟨n2Tables_inv, by decide +kernel, by decide +kernel⟩

theorem witness_CorruptIsUnreachable : n2Tables.Inv ∧ exec (.decode 4) n2Tables = .next (after (.decode 4) n2Tables) :=
  ⟨n2Tables_inv, exec_after _ _⟩

/-! ## Witnesses: the host port, the interrupt and reset -/

/-- The last register, the reserved offsets beside the registers, and the last offset of the window. -/
theorem witness_RegisterWindowReads :
    State.reset.rst = false ∧ State.reset.params.Ok ∧ (0x0FC ≤ 0xFFC ∧ 0xFFC < 0x1000 ∧ 0xFFC % 4 = 0) ∧
    regAt 0x0F8 = some (.chConv 14) ∧ regAt 0x0FC = none ∧ regAt 0x0BC = none ∧ regAt 0x018 = none ∧
    (hostRead 4 0x00FFC State.reset).resp = { err := false, data := 0 } := by decide +kernel

theorem witness_StatusAndConfigFields : State.reset.params.Ok := by decide

theorem witness_StatusWriteClears : n2Tree.rst = false ∧ (busyWith 0x00000001).rst = false := by decide +kernel

/-- The last word and the last byte of PKT_MEM. -/
theorem witness_PacketWritesEmptyThePhase :
    n2Tree.rst = false ∧ n2Tree.sequencer = .idle ∧ (65532 % 4 = 0 ∧ 65532 + 4 ≤ n2Tree.params.pktBytes) ∧
    (65535 % 1 = 0 ∧ 65535 + 1 ≤ n2Tree.params.pktBytes) := by decide +kernel

/-- A good access at the end of OUT_MEM; a write to TREE_MEM, an unmapped address, a misaligned one and a width of 3 are not good. -/
theorem witness_ErrorResponses :
    State.reset.rst = false ∧ (0x3FFFC : HostAddr).toNat % 4 = 0 ∧
    (0x3FFFC : HostAddr).toNat + 4 ≤ 0x30000 + State.reset.params.outBytes ∧
    busError State.reset.params true 1 0x01000 = true ∧ busError State.reset.params false 4 0x0FFFC = true ∧
    busError State.reset.params false 2 0x20001 = true ∧ busError State.reset.params false 3 0x30000 = true ∧
    busError State.reset.params false 1 0x0105B = false := by decide +kernel

theorem witness_BusyAccessesAreDropped :
    (busyWith 0x00000107).rst = false ∧ (busyWith 0x00000107).busy = true ∧ 0x01000 ≤ (0x01000 : HostAddr).toNat ∧
    (hostRead 1 0x01000 (busyWith 0x00000107)).resp.err = false ∧
    (hostWrite 4 0x3FFFC 0 (busyWith 0x00000107)).resp.err = false := by decide +kernel

/-- Reads at the ends of the four memories and of their windows; writes at the ends of PKT_MEM and OUT_MEM. -/
theorem witness_WriteThenReadBytes :
    State.reset.rst = false ∧ State.reset.sequencer = .idle ∧
    ((hostRead 4 0x01058 State.reset).resp.err = false ∧ (hostRead 1 0x0105C State.reset).resp = { err := false, data := 0 } ∧
      (hostRead 4 0x01FFC State.reset).resp.err = false ∧ (hostRead 4 0x1AFFC State.reset).resp.err = false ∧
      (hostRead 2 0x1B000 State.reset).resp = { err := false, data := 0 } ∧ (hostRead 4 0x1FFFC State.reset).resp.err = false ∧
      (hostRead 2 0x2FFFE State.reset).resp.err = false ∧ (hostRead 1 0x3FFFF State.reset).resp.err = false) ∧
    (0x20000 ≤ (0x2FFFC : HostAddr).toNat ∧ (hostWrite 4 0x2FFFC 0x11223344 State.reset).resp.err = false) ∧
    (0x20000 ≤ (0x3FFFF : HostAddr).toNat ∧ (hostWrite 1 0x3FFFF 0x44 State.reset).resp.err = false) := by
  refine ⟨rfl, rfl, ⟨?_, ?_, ?_, ?_, ?_, ?_, ?_, ?_⟩, ?_, ?_⟩
  all_goals decide +kernel

/-- Idle, and with each kind of word running. -/
theorem witness_SoftResetAborts :
    n2Tables.rst = false ∧ (0x00000002 : Word).getLsbD 1 = true ∧ n2Tables.sequencer = .idle ∧
    (∀ c ∈ ([0x0, 0x1, 0x2, 0x3, 0x404, 0x5, 0x6, 0x107, 0x8] : List Word),
      (n2Tables.accept c).rst = false ∧ (n2Tables.accept c).sequencer = .running c ∧ ∃ i, decodeWord c = .ok i) ∧
    decodeWord 0x00000009 = .error (.reservedOpcode 0x09) := by
  refine ⟨by decide +kernel, by decide, by decide +kernel, fun c hc => ⟨(by decide +kernel : n2Tables.rst = false), rfl, ?_⟩,
    by decide⟩
  fin_cases hc <;> exact ⟨_, rfl⟩

theorem witness_HardwareReset :
    (withEvent .assertRst).events = .assertRst :: [] ∧ (State.reset.setRst true).rst = true ∧
    (withEvent .releaseRst).events = .releaseRst :: [] := by decide +kernel

/-- A write to OUT_MEM, one to CTRL without SRST, and a read of OUT_MEM. -/
theorem witness_ResultsOutliveTransactions :
    (hostWrite 4 0x30000 7 n2Tree = hostWrite 4 0x30000 7 n2Tree ∧ (0x30000 : HostAddr) ≠ 0x00020) ∧
    (hostWrite 4 0x00020 0xFFFFFFFD n2Tree = hostWrite 4 0x00020 0xFFFFFFFD n2Tree ∧ (0xFFFFFFFD : Word).getLsbD 1 = false ∧
      (0x00020 : HostAddr).toNat < 0x30000) ∧
    hostRead 4 0x30000 n2Tree = hostRead 4 0x30000 n2Tree := ⟨⟨rfl, by decide⟩, ⟨rfl, by decide, by decide⟩, rfl⟩

theorem witness_InterruptFollowsDone :
    n2Tree.rst = false ∧ n2Tree.sequencer = .idle ∧ (0x00000002 : Word).getLsbD 1 = true ∧ (0xFFFFFFFD : Word).getLsbD 1 = false ∧
    exec .nop n2Tree = .next (after .nop n2Tree) ∧ (withEvent .assertRst).events = .assertRst :: [] ∧
    (hostWrite 1 0x01000 0 n2Tree).resp.err = true :=
  ⟨by decide +kernel, by decide +kernel, by decide, by decide, exec_after _ _, by decide +kernel, by decide +kernel⟩

end Tests
end Machine
end Sys2Proof
end

section
/-! The host port and the resets: a register transaction by the register's name, a transaction under RST, the two changes of the RST
input; and the statements on STATUS (10_state.md R19) and on hardware reset (70_reset_and_hazards.md R157). -/

namespace Sys2Proof
namespace Machine

/-! ## Transactions on a register -/

/-- Every register lies in the register window, at a word offset (10_state.md R11). -/
theorem Reg.offset_bounds (r : Reg) : r.offset < 0x01000 ∧ r.offset % 4 = 0 := by
  cases r with
  | chStart i | chConv i => simp only [Reg.offset]; omega
  | _ => decide

/-- A 32-bit read at a register's offset answers the register's value and does nothing else, whether or not a command runs. -/
theorem hostRead_reg {s : State} {a : HostAddr} {r : Reg} (hr : s.rst = false) (ha : a.toNat = r.offset) :
    hostRead 4 a s = s.answer false (s.regValue r) := by
  obtain ⟨hlt, hal⟩ := r.offset_bounds
  rw [hostRead_word hr (by omega) (by omega), ha, readWindow_offset]

/-- A 32-bit write at a register's offset has the register's effect, whether or not a command runs. -/
theorem hostWrite_reg {s : State} {a : HostAddr} {v : Word} {r : Reg} (hr : s.rst = false) (ha : a.toNat = r.offset) :
    hostWrite 4 a v s = (s.writeReg v r).answer false 0 := by
  obtain ⟨hlt, hal⟩ := r.offset_bounds
  rw [hostWrite_word hr (by omega) (by omega), ha, writeWindow_offset]

/-- Settles O52: a write to STATUS is `Status.clearBy`, and a read of it only answers. -/
theorem statusWriteClears : Obligations.StatusWriteClears := by
  intro s v hr
  exact ⟨⟨0, hostWrite_reg (r := .status) hr rfl⟩, hostRead_reg (r := .status) hr rfl⟩

/-! ## Hardware reset -/

/-- Under RST a host read answers 0 and has no effect (70_reset_and_hazards.md R157; log 21). -/
theorem hostRead_of_rst {s : State} (hr : s.rst = true) (n : Nat) (a : HostAddr) : hostRead n a s = s.answer false 0 := by
  simp [hostRead, hr]

/-- Under RST a host write has no effect (70_reset_and_hazards.md R157; log 21). -/
theorem hostWrite_of_rst {s : State} (hr : s.rst = true) (n : Nat) (a : HostAddr) (v : Word) :
    hostWrite n a v s = s.answer false 0 := by
  simp [hostWrite, hr]

theorem step_assertRst {s : State} {es : List Event} (he : s.events = .assertRst :: es) :
    step s = .next (s.withEvents es).hardwareReset := by
  simp [step, he]

theorem step_releaseRst {s : State} {es : List Event} (he : s.events = .releaseRst :: es) :
    step s = .next ((s.withEvents es).setRst false) := by
  simp [step, he]

/-- Hardware reset is the reset state but for what 10_state.md R45 leaves unspecified (the memories, SYMTAB), the parameters, the pins,
the pending events and the model's own counter of draws. -/
theorem State.hardwareReset_eq (s : State) :
    s.hardwareReset =
      { State.reset with
        params := s.params
        pkt := Memory.unspecified s.draws
        out := Memory.unspecified (s.draws + 1)
        tree := Memory.unspecified (s.draws + 2)
        table := Memory.unspecified (s.draws + 3)
        symtab := freeSymtab (s.draws + 4)
        rst := true
        events := s.events
        resp := s.resp
        draws := s.draws + 5 } := rfl

/-- Settles O58: the two changes of the RST input, and the transactions between them. -/
theorem hardwareReset : Obligations.HardwareReset := by
  refine ⟨fun s es he => ?asserted, fun s n a v hr => ?under, fun s es he => step_releaseRst he, rfl, rfl, rfl⟩
  case asserted =>
    rw [step_assertRst he, State.hardwareReset_eq]
    exact ⟨_, _, _, _, _, _, _, rfl⟩
  case under => exact ⟨hostRead_of_rst hr n a, 0, hostWrite_of_rst hr n a v⟩

end Machine
end Sys2Proof
end

section
/-! The memories seen from outside: which bytes of OUT_MEM a command with an output can change (20_memory.md R68), which
accesses are good, so that every other one gets an error response (R51, R52), and what an idle host write does to the packet (R57). -/

namespace Sys2Proof
namespace Machine

/-! ## OUT_MEM past the output (20_memory.md R68) -/

/-- Writing at most n bytes from offset 0 on leaves the bytes from n on. -/
theorem Memory.byte_put_zero_past (m : Memory) {bs : List Byte} {n a : Nat} (hl : bs.length ≤ n) (ha : n ≤ a) :
    (m.put 0 bs).byte a = m.byte a :=
  m.byte_put_outside 0 bs (.inr (by omega))

/-- A decode took `s` to `t` and kept what R68 speaks of: the header registers, and with them D, and OUT_MEM from D on. -/
structure State.KeepsPastOutput (s t : State) : Prop where
  hdr : t.hdr = s.hdr
  out : ∀ a, s.decodedLen ≤ a → t.out.byte a = s.out.byte a

theorem State.keepsPastOutput_refl (s : State) : s.KeepsPastOutput s := ⟨rfl, fun _ _ => rfl⟩

/-- At most D bytes written from offset 0 on, beside any change outside the header and OUT_MEM. -/
theorem State.keepsPastOutput_of_put {s t : State} {bs : List Byte} (hh : t.hdr = s.hdr) (ho : t.out = s.out.put 0 bs)
    (hl : bs.length ≤ s.decodedLen) : s.KeepsPastOutput t :=
  ⟨hh, fun a ha => by rw [ho, s.out.byte_put_zero_past hl ha]⟩

/-- A failed decode leaves exactly OUT_MEM[0..D−1] unspecified (60_exceptions.md R146). -/
theorem failDecode_keepsPastOutput (s : State) (e : Ending) : s.KeepsPastOutput (failDecode s e).state :=
  State.keepsPastOutput_of_put rfl rfl (freeBytes_length _ _).le

/-- What is written after CH_START and CH_CONV keeps what is written without them. -/
theorem State.KeepsPastOutput.of_setConv {s t : State} {c : Convergence} (h : (s.setConv c).KeepsPastOutput t) :
    s.KeepsPastOutput t :=
  ⟨h.hdr, h.out⟩

/-- A finished merge whose output fits D writes at most D bytes. -/
theorem mergeResult_keepsPastOutput {s : State} (k : Nat) {m : Merger} (hm : m.Fits s.decodedLen s.bitCount) :
    s.KeepsPastOutput (mergeResult s k m).state := by
  rcases mergeResult_cases s k m with ⟨e, _, _, h⟩ | ⟨e, _, _, h⟩ | ⟨_, _, h⟩ | ⟨_, _, h⟩ <;> rw [h]
  · exact (failDecode_keepsPastOutput _ _).of_setConv
  · exact failDecode_keepsPastOutput _ _
  · refine State.keepsPastOutput_of_put rfl rfl ?_
    rw [List.length_reverse, hm.emitted.length]
    exact hm.emitted.count
  · exact (failDecode_keepsPastOutput _ _).of_setConv

theorem decodeRun_keepsPastOutput (k : Nat) (s : State) : s.KeepsPastOutput (decodeRun k s).state := by
  rcases decodeRun_cases k s with ⟨_, h⟩ | ⟨e, _, _, _, h⟩ | ⟨cs, _, _, _, h⟩ | ⟨_, _, h⟩ <;> rw [h]
  · exact s.keepsPastOutput_refl
  · exact failDecode_keepsPastOutput s e
  · obtain ⟨hh, ho⟩ := mergeResult_keepsPastOutput k ((s.setWork { s.work with channels := cs }).merge_fits k)
    exact ⟨hh, ho⟩
  · exact s.keepsPastOutput_refl

/-- A tree walk that succeeds has found D symbols within B bits (44_decode.md R130). -/
theorem treeWalk_ok {nodes : List TreeNode} {count d b : Nat} {bits : List Bool} {w : TreeWalk} {fin : Nat}
    (h : treeWalk nodes count d b bits = .ok (w, fin)) : w.rev.length = d ∧ w.p ≤ b := by
  rcases treeWalk_cases nodes count d b bits with ⟨w', fin', h', hl, _, hp⟩ | ⟨_, h'⟩ | ⟨_, h'⟩ <;> rw [h] at h' <;> cases h'
  exact ⟨hl, hp⟩

theorem treeDecodeRun_keepsPastOutput (s : State) : s.KeepsPastOutput (treeDecodeRun s).state := by
  rcases treeDecodeRun_cases s with ⟨w, fin, _, hw, h⟩ | ⟨e, _, _, h⟩ | ⟨_, h⟩ <;> rw [h]
  · refine State.keepsPastOutput_of_put rfl rfl ?_
    rw [List.length_reverse, (treeWalk_ok hw).1]
  · exact failDecode_keepsPastOutput s e
  · exact s.keepsPastOutput_refl

@[simp] theorem popOrder_length (n : Nat) (h : List HeapEntry) : (popOrder n h).length = n := by
  induction n generalizing h with
  | zero => rfl
  | succ n ih => rw [popOrder, List.length_cons, ih]

/-- HEAP_ORDER's output has one byte for every symbol in use, so at most N (42_tree.md R101). -/
theorem orderedSymbols_symbols_length (s : State) (h : List HeapEntry) :
    (orderedSymbols s.symbols h).length ≤ s.symbolCount := by
  simp only [orderedSymbols, List.length_map, popOrder_length, State.symbols]
  exact List.length_take_le _ _

/-- HEAP_ORDER leaves OUT_MEM from N on. -/
theorem heapOrderRun_out_past {s : State} {a : Nat} (ha : s.symbolCount ≤ a) :
    (heapOrderRun s).state.out.byte a = s.out.byte a := by
  rcases heapOrderRun_cases s with ⟨_, h⟩ | ⟨_, h⟩ <;> rw [h]
  · exact s.out.byte_put_zero_past (orderedSymbols_symbols_length s _) ha
  · rfl

theorem buildTreeRun_out (s : State) : (buildTreeRun s).state.out = s.out := by
  rcases buildTreeRun_cases s with ⟨_, h⟩ | ⟨_, h⟩ <;> rw [h] <;> rfl

theorem genTablesRun_out (s : State) : (genTablesRun s).state.out = s.out := by
  rcases genTablesRun_cases s with ⟨_, h⟩ | ⟨_, h⟩ <;> rw [h] <;> rfl

/-- DECODE_PACKET leaves OUT_MEM from the D of its last state on: only its DECODE step writes OUT_MEM, and D is not changed after
PARSE. -/
theorem decodePacketRun_out_past {k : Nat} {s : State} {a : Nat} (ha : (decodePacketRun k s).state.decodedLen ≤ a) :
    (decodePacketRun k s).state.out.byte a = s.out.byte a := by
  rcases decodePacketRun_cases k s with ⟨_, h⟩ | ⟨e, _, _, _, h⟩ | ⟨p, _, _, h⟩ <;> rw [h] at ha ⊢
  · rfl
  · rfl
  · obtain ⟨hh, ho⟩ := decodeRun_keepsPastOutput k
      (genTablesRun (buildTreeRun (s.latchHeader p.registers (latchedSymtab s p.nsym))).state).state
    rw [State.decodedLen, hh] at ha
    rw [ho a ha, genTablesRun_out, buildTreeRun_out, State.latchHeader_out]

/-- Settles O29: completion touches neither OUT_MEM nor the header, so each clause is the frame of its run. -/
theorem outputPastTheEndUnchanged : Obligations.OutputPastTheEndUnchanged := by
  intro s t a
  refine ⟨?decode, ?heapOrder, ?decodePacket⟩
  case decode =>
    rintro (⟨k, h⟩ | h) ha <;> obtain rfl := exec_eq_next.1 h
    · exact (decodeRun_keepsPastOutput k s).out a ha
    · exact (treeDecodeRun_keepsPastOutput s).out a ha
  case heapOrder =>
    intro h ha
    obtain rfl := exec_eq_next.1 h
    exact heapOrderRun_out_past ha
  case decodePacket =>
    rintro ⟨k, h⟩ ha
    obtain rfl := exec_eq_next.1 h
    exact decodePacketRun_out_past ha

/-! ## Good accesses and error responses (20_memory.md R49 to R52) -/

/-- An access that gets no error response: a word of the register window, or 1, 2 or 4 aligned bytes of a memory window, not a write to
TREE_MEM or TABLE_MEM and not past the end of PKT_MEM or OUT_MEM. -/
def GoodAccess (p : Config.Params) (n : Nat) (a : HostAddr) (write : Bool) : Prop :=
  (a.toNat < 0x01000 ∧ n = 4 ∧ a.toNat % 4 = 0) ∨
  ((n = 1 ∨ n = 2 ∨ n = 4) ∧ a.toNat % n = 0 ∧
    ((0x01000 ≤ a.toNat ∧ a.toNat < 0x02000 ∧ write = false) ∨
      (0x10000 ≤ a.toNat ∧ a.toNat < 0x20000 ∧ write = false) ∨
      (0x20000 ≤ a.toNat ∧ a.toNat < 0x30000 ∧ a.toNat + n ≤ 0x20000 + p.pktBytes) ∨
      (0x30000 ≤ a.toNat ∧ a.toNat + n ≤ 0x30000 + p.outBytes)))

/-- The error responses are those of the accesses that are not good: in every window the ranges decide, but for `write` at TREE_MEM and
TABLE_MEM. -/
theorem busError_eq_false_iff (p : Config.Params) (write : Bool) (n : Nat) (a : HostAddr) :
    busError p write n a = false ↔ GoodAccess p n a write := by
  rcases windowOf_cases a with ⟨hi, e⟩ | ⟨lo, hi, e⟩ | ⟨lo, hi, e⟩ | ⟨lo, hi, e⟩ | ⟨lo, hi, e⟩ | ⟨lo, e⟩ <;>
    simp only [GoodAccess, busError, e, Bool.or_eq_false_iff, Bool.not_eq_false', decide_eq_false_iff_not, not_lt,
      naturalAccess_iff, wordAccess_iff, Bool.true_eq_false]
  · omega
  · grind
  · grind
  · grind
  · omega
  · omega

theorem busError_eq_true_iff (p : Config.Params) (write : Bool) (n : Nat) (a : HostAddr) :
    busError p write n a = true ↔ ¬ GoodAccess p n a write := by
  rw [← busError_eq_false_iff, Bool.not_eq_false]

/-- An error response changes BUS_ERR and answers data 0 (20_memory.md R52). -/
theorem hostRead_of_busError {s : State} {n : Nat} {a : HostAddr} (hr : s.rst = false) (hb : busError s.params false n a = true) :
    hostRead n a s = s.markBusErr.answer true 0 := by
  simp [hostRead, hr, hb]

theorem hostWrite_of_busError {s : State} {n : Nat} {a : HostAddr} (hr : s.rst = false) (hb : busError s.params true n a = true)
    (v : Word) : hostWrite n a v s = s.markBusErr.answer true 0 := by
  simp [hostWrite, hr, hb]

/-- Settles O54: `busError` decides, and an error response is `markBusErr` with data 0. -/
theorem errorResponses : Obligations.ErrorResponses := by
  intro s n a v hr good refused
  have bad (w : Bool) : ¬ good w → busError s.params w n a = true := (busError_eq_true_iff s.params w n a).2
  have ok (w : Bool) : good w → busError s.params w n a = false := (busError_eq_false_iff s.params w n a).2
  refine ⟨fun h => hostRead_of_busError hr (bad _ h), fun h => ?read, fun h => ⟨0, hostWrite_of_busError hr (bad _ h) v⟩,
    fun h => ?write⟩
  case read => rw [hostRead_resp_err, ok _ h, Bool.and_false]
  case write => rw [hostWrite_resp_err, ok _ h, Bool.and_false]

/-! ## Idle writes (20_memory.md R57) -/

theorem State.busy_of_idle {s : State} (h : s.sequencer = .idle) : s.busy = false := by
  rw [State.busy, h]

/-- An idle write without an error response has its effect. -/
theorem hostWrite_idle {s : State} {n : Nat} {a : HostAddr} {v : Word} (hr : s.rst = false) (hi : s.sequencer = .idle)
    (hb : busError s.params true n a = false) : hostWrite n a v s = (s.writeData n a v).answer false 0 := by
  simp [hostWrite, hr, hb, State.busy_of_idle hi]

theorem windowOf_pkt {a : HostAddr} {off : Nat} (ha : a.toNat = 0x20000 + off) (ho : off < 0x10000) : windowOf a = .pkt off := by
  simp (disch := omega) only [windowOf, ha, if_neg, if_pos, Nat.add_sub_cancel_left]

/-- Settles O53: an idle write to PKT_LEN, to CONV_LIMIT and to PKT_MEM. -/
theorem packetWritesEmptyThePhase : Obligations.PacketWritesEmptyThePhase := by
  intro s v hr hi
  have hb := State.busy_of_idle hi
  refine ⟨⟨0, ?pktLen⟩, ⟨0, ?convLimit⟩, fun n off hn hal hend hoff => ⟨0, ?pktMem⟩⟩
  case pktLen =>
    rw [hostWrite_reg (r := .pktLen) hr rfl, State.writeReg, hb]
    rfl
  case convLimit =>
    rw [hostWrite_reg (r := .convLimit) hr rfl, State.writeReg, hb]
    rfl
  case pktMem =>
    have ha : (BitVec.ofNat 18 (0x20000 + off)).toNat = 0x20000 + off := by
      rw [BitVec.toNat_ofNat]
      omega
    have hgood : GoodAccess s.params n (BitVec.ofNat 18 (0x20000 + off)) true :=
      .inr ⟨hn, by rw [ha]; rcases hn with rfl | rfl | rfl <;> omega, .inr (.inr (.inl (by omega)))⟩
    rw [hostWrite_idle hr hi ((busError_eq_false_iff _ _ _ _).2 hgood), State.writeData, windowOf_pkt ha hoff]
    rfl

end Machine
end Sys2Proof
end

section
/-! The command word: its fields under a mask, which words the decoder accepts and as which command (30_encoding.md R69, R70), that an
illegal word ends with E_BADCMD (R72), and a channel count out of range with E_BADARG (R71). -/

namespace Sys2Proof

/-! ## The fields of a word (30_encoding.md R69) -/

theorem opField_eq_setWidth (w : Word) : opField w = w.setWidth 8 := (BitVec.setWidth_eq_extractLsb' (by decide)).symm

theorem opField_toNat (w : Word) : (opField w).toNat = w.toNat % 256 := by
  rw [opField_eq_setWidth, BitVec.toNat_setWidth]

theorem kField_eq_div (w : Word) : kField w = w.toNat / 256 % 16 := by
  simp [kField, BitVec.extractLsb'_toNat, Nat.shiftRight_eq_div_pow]

theorem rsvField_toNat (w : Word) : (rsvField w).toNat = w.toNat / 4096 := by
  have := w.isLt
  rw [rsvField, BitVec.extractLsb'_toNat, Nat.shiftRight_eq_div_pow]
  omega

/-- The three fields are the whole word. -/
theorem word_eq_iff_fields {a b : Word} :
    a = b ↔ opField a = opField b ∧ kField a = kField b ∧ rsvField a = rsvField b := by
  refine ⟨fun h => h ▸ ⟨rfl, rfl, rfl⟩, fun h => BitVec.eq_of_toNat_eq ?_⟩
  simp only [← BitVec.toNat_inj, opField_toNat, kField_eq_div, rsvField_toNat] at h
  omega

@[simp] theorem opField_and (a b : Word) : opField (a &&& b) = opField a &&& opField b := BitVec.extractLsb'_and

@[simp] theorem kField_and (a b : Word) : kField (a &&& b) = kField a &&& kField b := by
  rw [kField, BitVec.extractLsb'_and, BitVec.toNat_and, kField, kField]

@[simp] theorem rsvField_and (a b : Word) : rsvField (a &&& b) = rsvField a &&& rsvField b := BitVec.extractLsb'_and

/-- The fields of a word that is an opcode and nothing else. -/
theorem opField_setWidth (op : Byte) : opField (op.setWidth 32) = op := by
  rw [opField_eq_setWidth, BitVec.setWidth_setWidth_of_le _ (by decide), BitVec.setWidth_eq]

theorem kField_setWidth (op : Byte) : kField (op.setWidth 32) = 0 := by
  rw [kField_eq_div, BitVec.toNat_setWidth]
  omega

theorem rsvField_setWidth (op : Byte) : rsvField (op.setWidth 32) = 0 := by
  simp only [← BitVec.toNat_inj, rsvField_toNat, BitVec.toNat_setWidth, BitVec.ofNat_eq_ofNat, BitVec.toNat_ofNat]
  omega

/-- A row that does not use K matches the words whose K and RSV are 0. -/
theorem and_wordMask_eq_iff (w : Word) (op : Byte) :
    w &&& 0xFFFFFFFF = op.setWidth 32 ↔ opField w = op ∧ kField w = 0 ∧ rsvField w = 0 := by
  have hall : w &&& 0xFFFFFFFF = w := BitVec.and_allOnes
  rw [hall, word_eq_iff_fields, opField_setWidth, kField_setWidth, rsvField_setWidth]

/-- A row that uses K matches the words whose RSV is 0, whatever their K. -/
theorem and_countMask_eq_iff (w : Word) (op : Byte) :
    w &&& 0xFFFFF0FF = op.setWidth 32 ↔ opField w = op ∧ rsvField w = 0 := by
  have hop : opField w &&& opField 0xFFFFF0FF = opField w := BitVec.and_allOnes
  have hk : kField w &&& kField 0xFFFFF0FF = 0 := Nat.and_zero _
  have hrsv : rsvField w &&& rsvField 0xFFFFF0FF = rsvField w := BitVec.and_allOnes
  rw [word_eq_iff_fields, opField_and, kField_and, rsvField_and, hop, hk, hrsv, opField_setWidth, kField_setWidth,
    rsvField_setWidth]
  simp

/-! ## What the decoder accepts (30_encoding.md R70, R72) -/

theorem withoutCount_eq_ok_iff {k : Nat} {i j : Instr} : withoutCount k i = .ok j ↔ k = 0 ∧ i = j := by
  unfold withoutCount
  split <;> simp [*]

/-- The opcode map: each arm is one command, and the count is its operand or 0. -/
theorem decodeOpcode_eq_ok_iff {op : Byte} {k : Nat} {i : Instr} :
    decodeOpcode op k = .ok i ↔ op = i.opcode ∧ k = i.channelCount.getD 0 := by
  constructor
  · intro h
    unfold decodeOpcode at h
    split at h
    case h_5 hop | h_8 hop =>
      cases h
      exact ⟨BitVec.eq_of_toNat_eq hop, rfl⟩
    case h_10 => cases h
    all_goals
      obtain ⟨rfl, rfl⟩ := withoutCount_eq_ok_iff.1 h
      exact ⟨BitVec.eq_of_toNat_eq (by assumption), rfl⟩
  · rintro ⟨rfl, rfl⟩
    cases i <;> rfl

/-- A word decodes to the command whose opcode and channel count its fields hold, where RSV is 0. -/
theorem decodeWord_eq_ok_iff {w : Word} {i : Instr} :
    decodeWord w = .ok i ↔ opField w = i.opcode ∧ kField w = i.channelCount.getD 0 ∧ rsvField w = 0 := by
  unfold decodeWord
  split
  case isTrue hrsv => simp [decodeOpcode_eq_ok_iff, hrsv]
  case isFalse hrsv => exact ⟨nofun, fun h => absurd h.2.2 hrsv⟩

/-! ## The rows of the opcode map (30_encoding.md R70) -/

/-- The row of a command: its mnemonic, its opcode, and a mask over the whole word but a count that the command uses. -/
def Instr.row (i : Instr) : OpcodeRow :=
  { mnemonic := i.mnemonic
    pattern := i.opcode.setWidth 32
    mask := if i.channelCount = none then 0xFFFFFFFF else 0xFFFFF0FF }

theorem opcodeRows_eq_map_row :
    opcodeRows = [.nop, .parse, .buildTree, .genTables, .decode 0, .treeDecode, .heapOrder, .decodePacket 0, .clear].map Instr.row := by
  decide

theorem Instr.row_mem_opcodeRows (i : Instr) : i.row ∈ opcodeRows := by
  cases i <;> simp [opcodeRows_eq_map_row, Instr.row, Instr.mnemonic, Instr.opcode, Instr.channelCount]

theorem exists_row_of_mem_opcodeRows {r : OpcodeRow} (h : r ∈ opcodeRows) : ∃ i : Instr, i.row = r := by
  rw [opcodeRows_eq_map_row, List.mem_map] at h
  exact h.imp fun _ hi => hi.2

/-- A word matches the row of a command where it has the command's opcode, RSV = 0, and K = 0 if the command does not use K. -/
theorem matches_row_iff (w : Word) (i : Instr) :
    w &&& i.row.mask = i.row.pattern ↔
      opField w = i.opcode ∧ (i.channelCount = none → kField w = 0) ∧ rsvField w = 0 := by
  rw [Instr.row]
  split
  case isTrue hc => rw [and_wordMask_eq_iff, imp_iff_right hc]
  case isFalse hc => rw [and_countMask_eq_iff, and_iff_right (absurd · hc)]

/-- Rows of the map with the same opcode are the same row, and so are rows with the same mnemonic. -/
theorem opcodeRows_injective :
    ∀ r ∈ opcodeRows, ∀ r' ∈ opcodeRows, r.pattern = r'.pattern ∨ r.mnemonic = r'.mnemonic → r = r' := by
  decide

/-- The command with its count, where it uses one, set to `k`. -/
def Instr.setCount (k : Nat) : Instr → Instr
  | .decode _ => .decode k
  | .decodePacket _ => .decodePacket k
  | i => i

/-- A word that matches a command's row is that command, with the word's own count. -/
theorem decodeWord_of_matches_row {w : Word} {i : Instr} (h : w &&& i.row.mask = i.row.pattern) :
    decodeWord w = .ok (i.setCount (kField w)) := by
  obtain ⟨hop, hk, hrsv⟩ := (matches_row_iff w i).1 h
  rw [decodeWord_eq_ok_iff]
  cases i with
  | decode _ | decodePacket _ => exact ⟨hop, rfl, hrsv⟩
  | _ => exact ⟨hop, hk rfl, hrsv⟩

theorem matches_row_of_decodeWord {w : Word} {i : Instr} (h : decodeWord w = .ok i) : w &&& i.row.mask = i.row.pattern := by
  obtain ⟨hop, hk, hrsv⟩ := decodeWord_eq_ok_iff.1 h
  exact (matches_row_iff w i).2 ⟨hop, fun hc => by rw [hk, hc]; rfl, hrsv⟩

/-- No word matches two rows. -/
theorem row_eq_of_matches {w : Word} {r r' : OpcodeRow} (hr : r ∈ opcodeRows) (hr' : r' ∈ opcodeRows)
    (h : w &&& r.mask = r.pattern) (h' : w &&& r'.mask = r'.pattern) : r = r' := by
  obtain ⟨i, rfl⟩ := exists_row_of_mem_opcodeRows hr
  obtain ⟨j, rfl⟩ := exists_row_of_mem_opcodeRows hr'
  have hop : i.opcode = j.opcode := ((matches_row_iff w i).1 h).1.symm.trans ((matches_row_iff w j).1 h').1
  exact opcodeRows_injective _ hr _ hr' (.inl (congrArg (BitVec.setWidth 32) hop))

/-- K as the spec writes it, bits [11:8]. -/
theorem count_bits_toNat (w : Word) : ((w >>> 8) &&& 0xF).toNat = kField w := by
  rw [kField_eq_div, BitVec.toNat_and, BitVec.toNat_ushiftRight, Nat.shiftRight_eq_div_pow]
  exact Nat.and_two_pow_sub_one_eq_mod _ 4

/-- Settles O3: the rows of the map are the rows of the commands, and no two of them meet. -/
theorem opcodeMapRows : Obligations.OpcodeMapRows := by
  refine ⟨fun w => ⟨?row, ?command⟩, fun w i hi r hr => ⟨fun h => ?same, fun h => ?own⟩, fun w h => ?decode,
    fun w h => ?decodePacket⟩
  case row => exact fun ⟨i, hi⟩ => ⟨i.row, i.row_mem_opcodeRows, matches_row_of_decodeWord hi⟩
  case command =>
    rintro ⟨r, hr, h⟩
    obtain ⟨i, rfl⟩ := exists_row_of_mem_opcodeRows hr
    exact ⟨_, decodeWord_of_matches_row h⟩
  case same => exact congrArg OpcodeRow.mnemonic (row_eq_of_matches hr i.row_mem_opcodeRows h (matches_row_of_decodeWord hi))
  case own =>
    rw [opcodeRows_injective r hr i.row i.row_mem_opcodeRows (.inr h)]
    exact matches_row_of_decodeWord hi
  case decode =>
    rw [count_bits_toNat]
    exact decodeWord_of_matches_row (i := .decode 0) h
  case decodePacket =>
    rw [count_bits_toNat]
    exact decodeWord_of_matches_row (i := .decodePacket 0) h

/-! ## Illegal words (30_encoding.md R72) -/

/-- OP as the spec writes it, bits [7:0]. -/
theorem opcode_bits_eq (w : Word) : w &&& 0xFF = (opField w).setWidth 32 := by
  apply BitVec.eq_of_toNat_eq
  rw [BitVec.toNat_and, BitVec.toNat_setWidth, opField_toNat, Nat.mod_eq_of_lt (by omega)]
  exact Nat.and_two_pow_sub_one_eq_mod _ 8

theorem reserved_bits_toNat (w : Word) : (w >>> 12).toNat = (rsvField w).toNat := by
  rw [rsvField_toNat, BitVec.toNat_ushiftRight, Nat.shiftRight_eq_div_pow]

theorem Instr.opcode_toNat_lt (i : Instr) : i.opcode.toNat < 9 := by
  cases i <;> simp [Instr.opcode]

/-- What a command's word can look like: none of the three conditions of R72. -/
theorem not_illegal_of_decodeWord {w : Word} {i : Instr} (h : decodeWord w = .ok i) :
    ¬ (9 ≤ (w &&& 0xFF).toNat ∨ w >>> 12 ≠ 0 ∨ ((w >>> 8) &&& 0xF ≠ 0 ∧ w &&& 0xFF ≠ 4 ∧ w &&& 0xFF ≠ 7)) := by
  obtain ⟨hop, hk, hrsv⟩ := decodeWord_eq_ok_iff.1 h
  rw [opcode_bits_eq, hop]
  rintro (h9 | h12 | ⟨hcount, h4, h7⟩)
  · rw [BitVec.toNat_setWidth] at h9
    have := i.opcode_toNat_lt
    omega
  · exact h12 (BitVec.eq_of_toNat_eq (by rw [reserved_bits_toNat, hrsv]; rfl))
  · cases i with
    | decode k => exact h4 rfl
    | decodePacket k => exact h7 rfl
    | _ => exact hcount (BitVec.eq_of_toNat_eq (by rw [count_bits_toNat, hk]; rfl))

namespace Machine

/-- A word with no command is completed by the sequencer with E_BADCMD and the word as ERR_INFO; nothing else changes. -/
theorem sequencerStep_of_undecodable {s : State} {c : Word} (hs : s.sequencer = .running c) (hc : ∀ i, decodeWord c ≠ .ok i) :
    sequencerStep s = .next (s.finish (opField c) { code := .badCmd, info := c }) := by
  rcases sequencerStep_cases s with ⟨hi, _⟩ | ⟨c', i, hr, hd, _⟩ | ⟨c', e, hr, _, h⟩
  · simp [hs] at hi
  · obtain rfl : c = c' := by simpa [hs] using hr
    exact absurd hd (hc i)
  · obtain rfl : c = c' := by simpa [hs] using hr
    exact h

theorem step_of_no_events {s : State} (he : s.events = []) : step s = sequencerStep s := by
  rw [step, he]

theorem step_write {s : State} {n : Nat} {a : HostAddr} {v : Word} {es : List Event} (he : s.events = .write n a v :: es) :
    step s = .next (hostWrite n a v (s.withEvents es)) := by
  rw [step, he]

/-- An idle write to CMD accepts the word (60_exceptions.md R139). -/
theorem hostWrite_cmd_idle {s : State} (hr : s.rst = false) (hi : s.sequencer = .idle) (c : Word) :
    hostWrite 4 0x00028 c s = (s.accept c).answer false 0 := by
  rw [hostWrite_reg (r := .cmd) hr rfl, State.writeReg, State.busy_of_idle hi]
  rfl

/-- Settles O5: no illegal word decodes, so the step after its acceptance is a completion with E_BADCMD. -/
theorem illegalWordCompletesBadCmd : Obligations.IllegalWordCompletesBadCmd := by
  intro s c hr hi he hillegal
  have hc : ∀ i, decodeWord c ≠ .ok i := fun i hd => not_illegal_of_decodeWord hd hillegal
  have accepted : step s = .next (((s.withEvents []).accept c).answer false 0) := by
    rw [step_write he, hostWrite_cmd_idle (s := s.withEvents []) hr hi]
  refine ⟨_, 0, accepted, rfl, ?_⟩
  rw [step_of_no_events rfl, sequencerStep_of_undecodable rfl hc, opField_eq_setWidth]
  rfl

/-! ## Channel counts out of range (30_encoding.md R71) -/

theorem State.badCount_eq_true_iff (s : State) (k : Nat) : s.badCount k = true ↔ k = 0 ∨ s.params.kMax < k := by
  rw [State.badCount, decide_eq_true_iff]

theorem decodeRun_of_badCount {s : State} {k : Nat} (h : s.badCount k = true) : decodeRun k s = raiseBadArg s k := by
  rw [decodeRun, if_pos h]

theorem decodePacketRun_of_badCount {s : State} {k : Nat} (h : s.badCount k = true) :
    decodePacketRun k s = raiseBadArg s k := by
  rw [decodePacketRun, if_pos h]

/-- A merge raises E_LENGTH and E_CORRUPT only. -/
theorem mergeResult_ending_ne_badArg {s : State} {k d b : Nat} {m : Merger} (hm : m.Fits d b) :
    (mergeResult s k m).ending.code ≠ .badArg := by
  have raised {e : Ending} (he : m.raised = some e) : e.code ≠ .badArg := by
    rcases hm.raised e he with ⟨w, rfl⟩ | hc
    · simp [lengthEnding]
    · simp [hc]
  rcases mergeResult_cases s k m with ⟨e, he, _, h⟩ | ⟨e, he, _, h⟩ | ⟨_, _, h⟩ | ⟨_, _, h⟩ <;> rw [h]
  · exact raised he
  · exact raised he
  · exact nofun
  · exact nofun

/-- DECODE with its count in range ends in some other way than E_BADARG. -/
theorem decodeRun_ending_ne_badArg {s : State} {k : Nat} (hk : s.badCount k = false) :
    (decodeRun k s).ending.code ≠ .badArg := by
  rcases decodeRun_cases k s with ⟨hbad, _⟩ | ⟨e, _, _, he, h⟩ | ⟨cs, _, _, _, h⟩ | ⟨_, _, h⟩
  · simp [hk] at hbad
  · rw [h, failDecode, speculate_error he]
    exact nofun
  · rw [h]
    exact mergeResult_ending_ne_badArg ((s.setWork { s.work with channels := cs }).merge_fits k)
  · rw [h]
    exact nofun

theorem buildTreeRun_params (s : State) : (buildTreeRun s).state.params = s.params := by
  rcases buildTreeRun_cases s with ⟨_, h⟩ | ⟨_, h⟩ <;> rw [h] <;> rfl

theorem genTablesRun_params (s : State) : (genTablesRun s).state.params = s.params := by
  rcases genTablesRun_cases s with ⟨_, h⟩ | ⟨_, h⟩ <;> rw [h] <;> rfl

/-- So does DECODE_PACKET: PARSE has no such error, and the DECODE step sees the same K_MAX. -/
theorem decodePacketRun_ending_ne_badArg {s : State} {k : Nat} (hk : s.badCount k = false) :
    (decodePacketRun k s).ending.code ≠ .badArg := by
  rcases decodePacketRun_cases k s with ⟨hbad, _⟩ | ⟨e, _, he, _, h⟩ | ⟨p, _, _, h⟩
  · simp [hk] at hbad
  · rw [h]
    rcases readHeader_error he with hc | hc | hc <;> simp [hc]
  · rw [h]
    apply decodeRun_ending_ne_badArg
    rw [State.badCount, genTablesRun_params, buildTreeRun_params, State.latchHeader_params]
    exact hk

/-- Settles O24: K is the word's field, a count out of range is `raiseBadArg`, and no run with its count in range ends so. -/
theorem countOutOfRangeIsBadArg : Obligations.CountOutOfRangeIsBadArg := by
  refine ⟨fun w k h => ?field, fun s k => ⟨fun h => ?out, fun h1 hmax t ht => ?inRange⟩⟩
  case field =>
    rw [count_bits_toNat]
    rcases h with h | h <;> exact (decodeWord_eq_ok_iff.1 h).2.1.symm
  case out =>
    have hk := (s.badCount_eq_true_iff k).2 h
    exact ⟨by rw [exec_next, runOf, decodeRun_of_badCount hk]; rfl, by rw [exec_next, runOf, decodePacketRun_of_badCount hk]; rfl⟩
  case inRange =>
    have hk : s.badCount k = false := by
      rw [Bool.eq_false_iff, Ne, State.badCount_eq_true_iff]
      omega
    rcases ht with ht | ht <;> obtain rfl := exec_eq_next.1 ht
    · exact decodeRun_ending_ne_badArg hk
    · exact decodePacketRun_ending_ne_badArg hk

end Machine
end Sys2Proof
end

section
/-! PARSE (41_parse.md): the equation of its checks for each of them, the next state of a packet it accepts and of one it refuses. -/

namespace Sys2Proof
namespace Machine

/-! ## The checks in their order (41_parse.md R86 to R89) -/

section
variable {len outBytes : Nat} {h : PacketHeader}

/-- Check 1: the packet is too short for N itself (R88). -/
theorem checkHeader_of_noCount (hcut : len < 12) : checkHeader len outBytes h = .error (truncatedBy 1) := by
  rw [checkHeader, if_pos hcut]

variable (hlen : 12 ≤ len)
include hlen

/-- N is out of range (R87). -/
theorem checkHeader_of_badCount (hn : h.nsym = 0 ∨ h.nsym = 1 ∨ 12 < h.nsym) :
    checkHeader len outBytes h = .error { code := .symtab, info := BitVec.ofNat 32 h.nsym } := by
  rw [checkHeader, if_neg (by omega), Config.maxSymbols, if_pos hn]

variable (hlo : 2 ≤ h.nsym) (hhi : h.nsym ≤ 12)
include hlo hhi

/-- Check 2: the packet ends within its header (R88). -/
theorem checkHeader_of_headerCut (hcut : len < 24 + 8 * h.nsym) : checkHeader len outBytes h = .error (truncatedBy 2) := by
  simp (disch := omega) only [checkHeader, Config.maxSymbols, if_neg, if_pos]

variable (hhdr : 24 + 8 * h.nsym ≤ len)
include hhdr

/-- Check 3: the packet is shorter than T (R88). -/
theorem checkHeader_of_totalCut (hcut : len < h.total) : checkHeader len outBytes h = .error (truncatedBy 3) := by
  simp (disch := omega) only [checkHeader, Config.maxSymbols, if_neg, if_pos]

variable (htotal : h.total ≤ len)
include htotal

/-- Check 4: the packet ends within its payload (R88). -/
theorem checkHeader_of_payloadCut (hcut : len < 24 + 8 * h.nsym + h.encLen) :
    checkHeader len outBytes h = .error (truncatedBy 4) := by
  simp (disch := omega) only [checkHeader, Config.maxSymbols, if_neg, if_pos]

variable (henc : 24 + 8 * h.nsym + h.encLen ≤ len)
include henc

/-- Check 5: the payload has fewer than B bits (R88). -/
theorem checkHeader_of_bitsCut (hcut : 8 * h.encLen < h.bits) : checkHeader len outBytes h = .error (truncatedBy 5) := by
  simp (disch := omega) only [checkHeader, Config.maxSymbols, if_neg, if_pos]

variable (hbits : h.bits ≤ 8 * h.encLen)
include hbits

/-- The output does not fit OUT_MEM (R89). -/
theorem checkHeader_of_largeOutput (hout : outBytes < h.decLen) :
    checkHeader len outBytes h = .error { code := .outSize, info := BitVec.ofNat 32 h.decLen } := by
  simp (disch := omega) only [checkHeader, Config.maxSymbols, if_neg, if_pos]

/-- A header that meets every check passes: the converse of `checkHeader_ok`. -/
theorem checkHeader_eq_ok (hout : h.decLen ≤ outBytes) : checkHeader len outBytes h = .ok h := by
  simp (disch := omega) only [checkHeader, Config.maxSymbols, if_neg]

end

/-! ## The next state (41_parse.md R90, R91) -/

/-- PARSE of a packet that passes latches its header and its symbol table (R90). -/
theorem exec_parse_of_ok {s : State} {h : PacketHeader} (hh : readHeader s = .ok h) :
    exec .parse s = .next
      { s with
        symtab := latchedSymtab s h.nsym
        hdr := h.registers
        counts := { nodes := 0, states := 0, maxCodeLen := 0 }
        errInfo := 0
        status := { s.status.succeeded 0x01 with phase := .parsed }
        sequencer := .idle } := by
  rw [exec_next, runOf, parseRun, hh]
  rfl

/-- PARSE of a packet that fails drops the header (R91). -/
theorem exec_parse_of_error {s : State} {e : Ending} (he : readHeader s = .error e) :
    exec .parse s = .next
      { s with
        hdr := { totalLo := 0, totalHi := 0, nsym := 0, bits := 0, encLen := 0, decLen := 0 }
        counts := { nodes := 0, states := 0, maxCodeLen := 0 }
        symtab := freeSymtab s.draws
        draws := s.draws + 1
        errInfo := e.info
        status := { s.status.failed 0x01 e.code with phase := .empty }
        sequencer := .idle } := by
  have raised : e.code ≠ .ok := by rcases readHeader_error he with hc | hc | hc <;> simp [hc]
  rw [exec_next, runOf, parseRun, he, State.finish, decide_eq_true raised]
  rfl

/-- Settles O13: the hypotheses are the checks, so the header is read and `exec_parse_of_ok` gives the next state. -/
theorem parseLatchesHeader : Obligations.ParseLatchesHeader := by
  rintro s _ rfl hlen hlo hhi hhdr htotal henc hbits hout
  have accepted : readHeader s = .ok (s.headerAt (s.le32 8)) := checkHeader_eq_ok hlen hlo hhi hhdr htotal henc hbits hout
  refine ⟨latchedSymtab s (s.le32 8), fun j hj => ?entries, ?next⟩
  case entries => rw [latchedSymtab_getElem, if_pos hj, State.packetEntry]
  case next => rw [exec_parse_of_ok accepted, PacketHeader.registers, State.headerAt]

/-- Settles O14: the clauses nest as the checks of `checkHeader` do, and every failed check has one effect, `exec_parse_of_error`. -/
theorem parseRejectsInOrder : Obligations.ParseRejectsInOrder := by
  rintro s _ _ rfl rfl fails
  have rejects {code : ErrCode} {info : Nat} (he : readHeader s = .error { code := code, info := BitVec.ofNat 32 info }) :
      fails code info := ⟨_, _, exec_parse_of_error he⟩
  refine ⟨fun hcut => rejects (checkHeader_of_noCount hcut), fun hlen hn => rejects (checkHeader_of_badCount hlen hn),
    fun hlen hlo hhi => ⟨fun hcut => rejects (checkHeader_of_headerCut hlen hlo hhi hcut), fun hhdr =>
    ⟨fun hcut => rejects (checkHeader_of_totalCut hlen hlo hhi hhdr hcut), fun htotal =>
    ⟨fun hcut => rejects (checkHeader_of_payloadCut hlen hlo hhi hhdr htotal hcut), fun henc =>
    ⟨fun hcut => rejects (checkHeader_of_bitsCut hlen hlo hhi hhdr htotal henc hcut), fun hbits hout =>
      rejects (checkHeader_of_largeOutput hlen hlo hhi hhdr htotal henc hbits hout)⟩⟩⟩⟩⟩

end Machine
end Sys2Proof
end

section
/-! GEN_TABLES (43_tables.md): the next state in either phase case, and the slot of every state and byte after the write. -/

namespace Sys2Proof
namespace Machine

/-- GEN_TABLES below TREE (R112, 60_exceptions.md R145). -/
theorem exec_genTables_of_early {s : State} (h : s.phaseAtLeast .tree = false) :
    exec .genTables s = .next
      { s with
        errInfo := BitVec.ofNat 32 s.status.phase.toNat
        status := s.status.failed 0x03 .seq
        sequencer := .idle } := by
  rw [exec_next, runOf, genTablesRun, h]
  rfl

/-- GEN_TABLES from TREE on writes the table image over TABLE_MEM (R112). -/
theorem exec_genTables_of_tree {s : State} (h : s.phaseAtLeast .tree = true) :
    exec .genTables s = .next
      { s with
        table := s.table.put 0 (tableImage s.tree.nodes s.counts.states.toNat)
        errInfo := 0
        status := { s.status.succeeded 0x03 with phase := .tables }
        sequencer := .idle } := by
  rw [exec_next, runOf, genTablesRun, h]
  rfl

/-- The slot of a byte given as a byte (R107, R114). -/
theorem slotBytesOf_toNat (nodes : List TreeNode) (states st : Nat) (v : Byte) :
    slotBytesOf nodes states st v.toNat =
      if st < states then slotImage (slotFn nodes st v) else List.replicate Config.slotBytes 0 := by
  rw [slotBytesOf, BitVec.ofNat_toNat, BitVec.setWidth_eq]

/-- Settles O18: the phase decides between the two next states, and the slots are the blocks of the table image. -/
theorem genTablesWritesSlots : Obligations.GenTablesWritesSlots := by
  refine ⟨by decide, fun s => ⟨fun early => ?early, fun late =>
    ⟨_, exec_genTables_of_tree (decide_eq_true late), rfl, fun st hst v => ?slot⟩⟩⟩
  case early => exact exec_genTables_of_early (decide_eq_false (not_le.2 early))
  case slot =>
    intro e
    rw [bytes_put_tableImage _ _ _ hst v.isLt, slotBytesOf_toNat]
    rfl

end Machine
end Sys2Proof
end

section
/-! Segments (44_decode.md R121): where they start, that they cover the bitstream evenly, and CH_START after a decode that merged. -/

namespace Sys2Proof
namespace Machine

/-! ## The segment starts -/

@[simp] theorem segStart_zero (l k : Nat) : segStart l k 0 = 0 := by
  rw [segStart, Nat.zero_mul, Nat.zero_div]

theorem segStart_count (l : Nat) {k : Nat} (hk : 0 < k) : segStart l k k = l := Nat.mul_div_cancel_left l hk

/-- A segment has floor(L/K) bytes or one more. -/
theorem segStart_succ (l i : Nat) {k : Nat} (hk : 0 < k) :
    segStart l k (i + 1) = segStart l k i + l / k ∨ segStart l k (i + 1) = segStart l k i + l / k + 1 := by
  simp only [segStart]
  rw [Nat.succ_mul, Nat.add_div hk]
  split
  · exact .inr rfl
  · exact .inl rfl

theorem segStart_le_succ (l k i : Nat) : segStart l k i ≤ segStart l k (i + 1) :=
  Nat.div_le_div_right (Nat.mul_le_mul_right l (Nat.le_succ i))

/-- Any two segments differ in length by at most 1 byte. -/
theorem segment_length_le (l i j : Nat) {k : Nat} (hk : 0 < k) :
    segStart l k (i + 1) - segStart l k i ≤ segStart l k (j + 1) - segStart l k j + 1 := by
  have hi := segStart_succ l i hk
  have hj := segStart_succ l j hk
  omega

/-! ## The segments' bytes -/

/-- The bytes before segment n + 1 are those before segment n and its own. -/
theorem take_segStart_append_segmentOf (stream : List Byte) (k n : Nat) :
    stream.take (segStart stream.length k n) ++ segmentOf stream k n = stream.take (segStart stream.length k (n + 1)) := by
  rw [segmentOf, ← List.take_add, Nat.add_sub_cancel' (segStart_le_succ _ k n)]

/-- The first n segments are the bytes before the start of segment n. -/
theorem flatten_segmentOf_range (stream : List Byte) (k n : Nat) :
    ((List.range n).map (segmentOf stream k)).flatten = stream.take (segStart stream.length k n) := by
  induction n with
  | zero => simp
  | succ n ih =>
    rw [List.range_succ, List.map_append, List.flatten_append, ih, List.map_singleton, List.flatten_singleton,
      take_segStart_append_segmentOf]

theorem State.segments_flatten (s : State) {k : Nat} (hk : 0 < k) : (s.segments k).flatten = s.stream := by
  rw [State.segments, flatten_segmentOf_range, segStart_count _ hk, List.take_length]

/-! ## CH_START and CH_CONV after a decode that merged (44_decode.md R125, R129) -/

/-- A merge that ends with success or E_LENGTH writes CH_START and CH_CONV. -/
theorem mergeResult_conv {s : State} {k d b : Nat} {m : Merger} (hm : m.Fits d b)
    (hc : (mergeResult s k m).ending.code = .ok ∨ (mergeResult s k m).ending.code = .length) :
    (mergeResult s k m).state.conv = s.mergedConv k m := by
  rcases mergeResult_cases s k m with ⟨e, _, _, h⟩ | ⟨e, he, hne, h⟩ | ⟨_, _, h⟩ | ⟨_, _, h⟩ <;> rw [h] at hc ⊢
  · rfl
  · rcases hm.raised e he with ⟨w, rfl⟩ | corrupt
    · exact absurd rfl hne
    · simp [failDecode, corrupt] at hc
  · rfl
  · rfl

/-- A DECODE that ends with success or E_LENGTH has merged what its channel units stored, and wrote CH_START and CH_CONV. -/
theorem decodeRun_conv {s : State} {k : Nat} (hc : (decodeRun k s).ending.code = .ok ∨ (decodeRun k s).ending.code = .length) :
    ∃ cs, speculate s.table s.counts.states.toNat (s.segments k) = .ok cs ∧
      (decodeRun k s).state.conv = s.mergedConv k ((s.setWork { s.work with channels := cs }).merge k) := by
  rcases decodeRun_cases k s with ⟨_, h⟩ | ⟨e, _, _, he, h⟩ | ⟨cs, _, _, hs, h⟩ | ⟨_, _, h⟩ <;> rw [h] at hc ⊢
  · simp [raiseBadArg] at hc
  · simp [failDecode, speculate_error he] at hc
  · exact ⟨cs, hs, mergeResult_conv ((s.setWork { s.work with channels := cs }).merge_fits k) hc⟩
  · simp [raiseSeq] at hc

theorem startRegs_getElem (l k : Nat) (i : Fin 15) :
    (startRegs l k)[i.val] = BitVec.ofNat 32 (if i.val < k then segStart l k i.val else l) := by
  rw [startRegs, Vector.getElem_ofFn]

/-- Settles O38: a segment's length is floor(L/K) or one more, the first n segments are the bytes before segment n, and a decode that
ends with success or E_LENGTH wrote CH_START from the segment starts. -/
theorem segmentsCoverTheStream : Obligations.SegmentsCoverTheStream := by
  refine ⟨fun l k hk => ⟨fun _ => rfl, segStart_zero l k, segStart_count l hk, fun i _ => segStart_le_succ l k i,
    fun i _ j _ => segment_length_le l i j hk⟩, ?chStart, fun s k hk => s.segments_flatten hk⟩
  case chStart =>
    intro s t k h hc i
    obtain rfl := exec_eq_next.1 h
    obtain ⟨cs, _, hconv⟩ := decodeRun_conv hc
    rw [State.finish_conv, runOf, hconv, State.mergedConv, startRegs_getElem, segStart]

end Machine
end Sys2Proof
end

section
/-! The control commands (45_control.md): what NOP and CLEAR leave, that BUILD_TREE, GEN_TABLES and DECODE do not see what the
completion before them wrote, and DECODE_PACKET as PARSE, BUILD_TREE, GEN_TABLES and DECODE one after the other. -/

namespace Sys2Proof
namespace Machine

/-! ## NOP and CLEAR (45_control.md R135, R138) -/

/-- The completion of a command that succeeds (60_exceptions.md R140). -/
theorem State.finish_success (s : State) (op : Byte) :
    s.finish op Ending.success = { s with errInfo := 0, status := s.status.succeeded op, sequencer := .idle } := rfl

/-- Settles O11: NOP's run writes nothing, so its next state is its completion. -/
theorem nopOnlyCompletes : Obligations.NopOnlyCompletes := by
  refine ⟨by decide, fun s => ?_⟩
  rw [exec_next, runOf, succeed_state, succeed_ending, State.finish_success, Instr.opcode]

/-- Settles O12: CLEAR's run is `clearDerived`, whose SYMTAB is a free one, and its completion is a success. -/
theorem clearDropsDerivedState : Obligations.ClearDropsDerivedState := by
  refine ⟨by decide, fun s => ⟨freeSymtab s.draws, s.draws + 1, ?_⟩⟩
  rw [exec_next, runOf, succeed_state, succeed_ending, State.finish_success, Instr.opcode]
  rfl

/-! ## A command after a completion

A completion writes ERR_INFO, the sequencer and STATUS but PHASE (60_exceptions.md R140). The runs of BUILD_TREE, GEN_TABLES and DECODE
read none of them. -/

/-- A second completion leaves nothing of the first. -/
theorem State.finish_finish (s : State) (op op' : Byte) (e e' : Ending) :
    (s.finish op e).finish op' e' = s.finish op' e' := rfl

/-- The run with the writes of an earlier completion in its state. -/
def CommandResult.finishState (r : CommandResult) (op : Byte) (e : Ending) : CommandResult :=
  { r with state := r.state.finish op e }

section
variable (s : State) (op : Byte) (e : Ending)

theorem buildTreeRun_finish : buildTreeRun (s.finish op e) = (buildTreeRun s).finishState op e := by
  have phase : (s.finish op e).phaseAtLeast .parsed = s.phaseAtLeast .parsed := rfl
  rw [buildTreeRun, buildTreeRun, phase]
  cases s.phaseAtLeast .parsed <;> rfl

theorem genTablesRun_finish : genTablesRun (s.finish op e) = (genTablesRun s).finishState op e := by
  have phase : (s.finish op e).phaseAtLeast .tree = s.phaseAtLeast .tree := rfl
  rw [genTablesRun, genTablesRun, phase]
  cases s.phaseAtLeast .tree <;> rfl

theorem mergeResult_finish (k : Nat) (m : Merger) :
    mergeResult (s.finish op e) k m = (mergeResult s k m).finishState op e := by
  rw [mergeResult, mergeResult]
  cases m.raised with
  | none => cases m.done <;> rfl
  | some raised => by_cases hlen : raised.code = .length <;> simp only [hlen, if_true, if_false] <;> rfl

theorem decodeRun_finish (k : Nat) : decodeRun k (s.finish op e) = (decodeRun k s).finishState op e := by
  have count : (s.finish op e).badCount k = s.badCount k := rfl
  have phase : (s.finish op e).status.phase = s.status.phase := rfl
  have segments : (s.finish op e).segments k = s.segments k := rfl
  rw [decodeRun, decodeRun, count, phase, segments, State.finish_table, State.finish_counts]
  split
  · rfl
  · split
    · cases speculate s.table s.counts.states.toNat (s.segments k) with
      | error err => rfl
      | ok cs =>
        have merged := mergeResult_finish (s.setWork { s.work with channels := cs }) op e k
          ((s.setWork { s.work with channels := cs }).merge k)
        exact congrArg CommandResult.releaseWork merged
    · rfl

end

/-- A command whose run sees nothing of an earlier completion has the same next state after it as without it. -/
theorem exec_finish {i : Instr} {s : State} {op : Byte} {e : Ending}
    (h : runOf i (s.finish op e) = (runOf i s).finishState op e) : exec i (s.finish op e) = exec i s := by
  rw [exec_next, exec_next, h, CommandResult.finishState, State.finish_finish]

/-! ## DECODE_PACKET (45_control.md R137) -/

theorem buildTreeRun_reaches_tree {s : State} (h : s.phaseAtLeast .parsed = true) :
    (buildTreeRun s).state.phaseAtLeast .tree = true := by
  rw [buildTreeRun, h]
  rfl

/-- BUILD_TREE after another command's completion, with PHASE ≥ PARSED: it succeeds, on what that command wrote. -/
theorem exec_buildTree_finish {s : State} (h : s.phaseAtLeast .parsed = true) (op : Byte) (e : Ending) :
    exec .buildTree (s.finish op e) = .next ((buildTreeRun s).state.finish 0x02 Ending.success) := by
  rw [exec_finish (i := .buildTree) (buildTreeRun_finish s op e), exec_next, runOf, buildTreeRun, h]
  rfl

/-- GEN_TABLES after another command's completion, with PHASE ≥ TREE: it succeeds, on what that command wrote. -/
theorem exec_genTables_finish {s : State} (h : s.phaseAtLeast .tree = true) (op : Byte) (e : Ending) :
    exec .genTables (s.finish op e) = .next ((genTablesRun s).state.finish 0x03 Ending.success) := by
  rw [exec_finish (i := .genTables) (genTablesRun_finish s op e), exec_next, runOf, genTablesRun, h]
  rfl

/-- DECODE after another command's completion, however it ends, runs on what that command wrote. -/
theorem exec_decode_finish (k : Nat) (s : State) (op : Byte) (e : Ending) :
    exec (.decode k) (s.finish op e) = .next ((decodeRun k s).state.finish 0x04 (decodeRun k s).ending) := by
  rw [exec_finish (i := .decode k) (decodeRun_finish s op e k), exec_next, runOf, Instr.opcode]

/-- Settles O22: the completions between the four steps leave nothing that the next step reads, so the chain of commands runs DECODE
on the state that `decodePacketRun` runs it on, and the last completion differs in its opcode. -/
theorem decodePacketRunsPipeline : Obligations.DecodePacketRunsPipeline := by
  obtain ⟨_, _, _, words⟩ := opcodeMapRows
  obtain ⟨_, counts⟩ := countOutOfRangeIsBadArg
  refine ⟨words, fun s k => ⟨fun hk => ((counts s k).1 hk).2, fun h1 hmax => ?inRange⟩⟩
  rcases decodePacketRun_cases k s with ⟨hbad, _⟩ | ⟨e, _, he, raised, run⟩ | ⟨h, _, hh, run⟩
  · rw [State.badCount_eq_true_iff] at hbad
    omega
  · refine ⟨fun _ hh => by simp [he] at hh, fun e' he' => ?parseFails⟩
    obtain rfl : e = e' := by simpa [he] using he'
    refine ⟨_, exec_parse_of_error he, raised, ?_⟩
    rw [exec_next, runOf, run, State.finish, decide_eq_true raised]
    rfl
  · refine ⟨fun h' hh' => ?parsePasses, fun _ he => by simp [hh] at he⟩
    obtain rfl : h = h' := by simpa [hh] using hh'
    have parsed : (s.latchHeader h.registers (latchedSymtab s h.nsym)).phaseAtLeast .parsed = true := rfl
    have built := buildTreeRun_reaches_tree parsed
    refine ⟨_, _, _, _, exec_parse_of_ok hh, rfl, exec_buildTree_finish parsed 0x01 Ending.success, rfl,
      exec_genTables_finish built _ _, rfl, exec_decode_finish k _ _ _, ?_⟩
    rw [exec_next, runOf, run]
    rfl

end Machine
end Sys2Proof
end

section
/-! Acceptance and the refusals (60_exceptions.md): a write to CMD (R139), the PHASE requirements (R144), and that a command refused
with E_BADCMD, E_BADARG or E_SEQ writes only its completion (R145). -/

namespace Sys2Proof
namespace Machine

/-! ## Acceptance (60_exceptions.md R139) -/

/-- A write to CMD while a command runs is dropped (20_memory.md R55). -/
theorem hostWrite_cmd_busy {s : State} (hr : s.rst = false) (hb : s.busy = true) (c : Word) :
    hostWrite 4 0x00028 c s = s.markCmdDrop.answer false 0 := by
  rw [hostWrite_reg (r := .cmd) hr rfl, State.writeReg, if_pos hb]

/-- Settles O9: an idle write is `accept`, which clears DONE and with it the interrupt; a busy one is `markCmdDrop`. -/
theorem cmdWriteAcceptsOrDrops : Obligations.CmdWriteAcceptsOrDrops := by
  intro s c hr
  refine ⟨fun hi => ?idle, fun hb => ⟨0, hostWrite_cmd_busy hr hb c⟩⟩
  case idle =>
    rw [hostWrite_cmd_idle hr hi]
    exact ⟨⟨0, rfl⟩, rfl, Bool.and_false _⟩

/-! ## The two refusals of a legal command (30_encoding.md R71, R144) -/

/-- The least PHASE a command accepts (R144). -/
def requiredPhase : Instr → Phase
  | .nop | .parse | .decodePacket _ | .clear => .empty
  | .buildTree | .heapOrder => .parsed
  | .genTables | .treeDecode => .tree
  | .decode _ => .tables

/-- The ending of a legal command that was refused (R145). -/
def Ending.Refuses (e : Ending) : Prop := e.code = .badArg ∨ e.code = .seq

theorem Ending.not_refuses_success : ¬ Ending.success.Refuses := by
  simp [Ending.Refuses]

theorem Ending.not_refuses_lengthEnding (w : Nat) : ¬ (lengthEnding w).Refuses := by
  simp [Ending.Refuses, lengthEnding]

theorem Ending.not_refuses_of_corrupt {e : Ending} (h : e.code = .corrupt) : ¬ e.Refuses := by
  simp [Ending.Refuses, h]

theorem readHeader_error_not_refuses {s : State} {e : Ending} (he : readHeader s = .error e) : ¬ e.Refuses := by
  rcases readHeader_error he with hc | hc | hc <;> simp [Ending.Refuses, hc]

theorem State.phaseAtLeast_empty (s : State) : s.phaseAtLeast .empty = true :=
  decide_eq_true (Nat.zero_le _)

theorem State.phaseAtLeast_tables_iff (s : State) : s.phaseAtLeast .tables = true ↔ s.status.phase = .tables := by
  rw [State.phaseAtLeast, decide_eq_true_iff]
  cases s.status.phase <;> decide

/-- TREE_DECODE's walk raises E_LENGTH and E_CORRUPT only (44_decode.md R130). -/
theorem treeWalk_error_not_refuses {nodes : List TreeNode} {count d b : Nat} {bits : List Bool} {e : Ending}
    (he : treeWalk nodes count d b bits = .error e) : ¬ e.Refuses := by
  rcases treeWalk_cases nodes count d b bits with ⟨w, fin, hw, _⟩ | ⟨w, hw⟩ | ⟨x, hw⟩ <;> rw [hw] at he
  · cases he
  · cases he
    exact Ending.not_refuses_lengthEnding w
  · cases he
    exact Ending.not_refuses_of_corrupt rfl

theorem mergeResult_not_refuses {s : State} {k d b : Nat} {m : Merger} (hm : m.Fits d b) :
    ¬ (mergeResult s k m).ending.Refuses := by
  have raised {e : Ending} (he : m.raised = some e) : ¬ e.Refuses := by
    rcases hm.raised e he with ⟨w, rfl⟩ | hc
    · exact Ending.not_refuses_lengthEnding w
    · exact Ending.not_refuses_of_corrupt hc
  rcases mergeResult_cases s k m with ⟨e, he, _, h⟩ | ⟨e, he, _, h⟩ | ⟨_, _, h⟩ | ⟨_, _, h⟩ <;> rw [h]
  · exact raised he
  · exact raised he
  · exact Ending.not_refuses_success
  · exact Ending.not_refuses_lengthEnding _

/-- DECODE with its count in range and PHASE = TABLES is not refused. -/
theorem decodeRun_not_refuses {s : State} {k : Nat} (hk : s.badCount k = false) (hp : s.status.phase = .tables) :
    ¬ (decodeRun k s).ending.Refuses := by
  rcases decodeRun_cases k s with ⟨hbad, _⟩ | ⟨e, _, _, he, h⟩ | ⟨cs, _, _, _, h⟩ | ⟨_, hne, _⟩
  · simp [hk] at hbad
  · rw [h]
    exact Ending.not_refuses_of_corrupt (speculate_error he)
  · rw [h]
    exact mergeResult_not_refuses ((s.setWork { s.work with channels := cs }).merge_fits k)
  · exact absurd hp hne

/-- DECODE_PACKET with its count in range is not refused: PARSE has neither code, and the steps before DECODE leave PHASE = TABLES. -/
theorem decodePacketRun_not_refuses {s : State} {k : Nat} (hk : s.badCount k = false) :
    ¬ (decodePacketRun k s).ending.Refuses := by
  rcases decodePacketRun_cases k s with ⟨hbad, _⟩ | ⟨e, _, he, _, h⟩ | ⟨p, _, _, h⟩
  · simp [hk] at hbad
  · rw [h]
    exact readHeader_error_not_refuses he
  · rw [h]
    apply decodeRun_not_refuses
    · rw [State.badCount, genTablesRun_params, buildTreeRun_params, State.latchHeader_params]
      exact hk
    · rfl

/-- A run that succeeds from a phase on, and is refused below it. -/
theorem raiseSeq_or_not_refuses {s t : State} {p : Phase} {r : CommandResult}
    (h : (s.phaseAtLeast p = true ∧ r = succeed t) ∨ (s.phaseAtLeast p = false ∧ r = raiseSeq s)) :
    (s.phaseAtLeast p = false ∧ r = raiseSeq s) ∨ (s.phaseAtLeast p = true ∧ ¬ r.ending.Refuses) := by
  rcases h with ⟨hp, rfl⟩ | early
  · exact .inr ⟨hp, Ending.not_refuses_success⟩
  · exact .inl early

/-- Every command is refused for its count, is refused for the phase, or meets its requirement and is not refused; a refused run
writes nothing. -/
theorem runOf_cases (i : Instr) (s : State) :
    (∃ k, i.channelCount = some k ∧ s.badCount k = true ∧ runOf i s = raiseBadArg s k) ∨
    (s.phaseAtLeast (requiredPhase i) = false ∧ runOf i s = raiseSeq s) ∨
    (s.phaseAtLeast (requiredPhase i) = true ∧ ¬ (runOf i s).ending.Refuses) := by
  cases i with
  | nop | clear => exact .inr (.inr ⟨s.phaseAtLeast_empty, Ending.not_refuses_success⟩)
  | parse =>
    refine .inr (.inr ⟨s.phaseAtLeast_empty, ?_⟩)
    rcases parseRun_cases s with ⟨p, _, h⟩ | ⟨e, he, h⟩ <;> rw [runOf, h]
    · exact Ending.not_refuses_success
    · exact readHeader_error_not_refuses he
  | buildTree => exact .inr (raiseSeq_or_not_refuses (buildTreeRun_cases s))
  | heapOrder => exact .inr (raiseSeq_or_not_refuses (heapOrderRun_cases s))
  | genTables => exact .inr (raiseSeq_or_not_refuses (genTablesRun_cases s))
  | treeDecode =>
    rcases treeDecodeRun_cases s with ⟨w, fin, hp, _, h⟩ | ⟨e, hp, he, h⟩ | ⟨hp, h⟩
    · exact .inr (.inr ⟨hp, by rw [runOf, h]; exact Ending.not_refuses_success⟩)
    · exact .inr (.inr ⟨hp, by rw [runOf, h]; exact treeWalk_error_not_refuses he⟩)
    · exact .inr (.inl ⟨hp, h⟩)
  | decode k =>
    cases hk : s.badCount k with
    | true => exact .inl ⟨k, rfl, hk, decodeRun_of_badCount hk⟩
    | false =>
      by_cases hp : s.status.phase = .tables
      · exact .inr (.inr ⟨s.phaseAtLeast_tables_iff.2 hp, decodeRun_not_refuses hk hp⟩)
      · refine .inr (.inl ⟨Bool.eq_false_iff.2 (mt s.phaseAtLeast_tables_iff.1 hp), ?_⟩)
        rw [runOf, decodeRun, hk, if_neg hp]
        rfl
  | decodePacket k =>
    cases hk : s.badCount k with
    | true => exact .inl ⟨k, rfl, hk, decodePacketRun_of_badCount hk⟩
    | false => exact .inr (.inr ⟨s.phaseAtLeast_empty, decodePacketRun_not_refuses hk⟩)

/-! ## What a refusal leaves (60_exceptions.md R144, R145) -/

/-- Where DECODE's count is in range a bad count is DECODE_PACKET's, which has no phase requirement. -/
theorem phaseAtLeast_requiredPhase_of_badCount {s : State} {i : Instr} {k : Nat}
    (inRange : ∀ k, i = .decode k → 1 ≤ k ∧ k ≤ s.params.kMax) (hc : i.channelCount = some k) (hbad : s.badCount k = true) :
    s.phaseAtLeast (requiredPhase i) = true := by
  cases i with
  | decode j =>
    obtain rfl := Option.some.inj hc
    have := inRange j rfl
    rw [State.badCount_eq_true_iff] at hbad
    omega
  | decodePacket j => exact s.phaseAtLeast_empty
  | _ => cases hc

/-- Settles O25: below the requirement only `raiseSeq` is left of the three cases of `runOf_cases`, and from it on `raiseSeq` is not. -/
theorem phaseRequirements : Obligations.PhaseRequirements := by
  intro s i inRange required
  have hreq : required = (requiredPhase i).toNat := by cases i <;> rfl
  rw [hreq]
  refine ⟨fun early => ?early, fun met t ht => ?met⟩
  case early =>
    have hp : s.phaseAtLeast (requiredPhase i) = false := decide_eq_false (not_le.2 early)
    rcases runOf_cases i s with ⟨k, hc, hbad, _⟩ | ⟨_, h⟩ | ⟨late, _⟩
    · simp [phaseAtLeast_requiredPhase_of_badCount inRange hc hbad] at hp
    · rw [exec_next, h]
      rfl
    · simp [late] at hp
  case met =>
    have hp : s.phaseAtLeast (requiredPhase i) = true := decide_eq_true met
    obtain rfl := exec_eq_next.1 ht
    rcases runOf_cases i s with ⟨k, _, _, h⟩ | ⟨early, _⟩ | ⟨_, h⟩
    · rw [h]
      exact nofun
    · simp [early] at hp
    · exact fun hseq => h (.inr hseq)

/-- Settles O26: a legal command that is refused is one of the two raises of `runOf_cases`, which keep the state; so does the run of an
illegal word. -/
theorem refusedCommandChangesNothing : Obligations.RefusedCommandChangesNothing := by
  refine ⟨fun i s t ht refused => ?legal, fun c s e he hs hd => ?illegal⟩
  case legal =>
    obtain rfl := exec_eq_next.1 ht
    rcases runOf_cases i s with ⟨k, _, _, h⟩ | ⟨_, h⟩ | ⟨_, h⟩
    · rw [h]
      rfl
    · rw [h]
      rfl
    · exact absurd refused h
  case illegal =>
    rw [step_of_no_events he, sequencerStep_of_undecodable hs (by simp [hd]), opField_eq_setWidth]
    rfl

end Machine
end Sys2Proof
end

section
/-! Soft reset (70_reset_and_hazards.md R158): what the abort of a running command leaves, by the command (R159), and the state after
a write to CTRL with SRST set. -/

namespace Sys2Proof
namespace Machine

/-! ## The abort of a running command (70_reset_and_hazards.md R159) -/

section
variable {s : State} {c : Word} {i : Instr}

theorem State.abort_of_idle (hs : s.sequencer = .idle) : s.abort = s := by
  simp [State.abort, State.fetched, hs]

theorem State.abort_of_running (hs : s.sequencer = .running c) : s.abort = abortRunning c s := by
  simp [State.abort, State.fetched, hs]

theorem abortRunning_of_error {e : DecodeError} (hd : decodeWord c = .error e) : abortRunning c s = s := by
  simp [abortRunning, hd]

/-- NOP, PARSE and CLEAR write no memory. -/
theorem abortRunning_of_noRegion (hd : decodeWord c = .ok i) (hi : i = .nop ∨ i = .parse ∨ i = .clear) : abortRunning c s = s := by
  rcases hi with rfl | rfl | rfl <;> simp [abortRunning, hd]

theorem abortRunning_of_buildTree (hd : decodeWord c = .ok .buildTree) : abortRunning c s = s.scrambleTree := by
  simp [abortRunning, hd]

theorem abortRunning_of_genTables (hd : decodeWord c = .ok .genTables) : abortRunning c s = s.scrambleTable := by
  simp [abortRunning, hd]

/-- The two decoders share one region. -/
theorem abortRunning_of_decoder (hd : decodeWord c = .ok i) (hi : i = .treeDecode ∨ ∃ k, i = .decode k) :
    abortRunning c s = s.scrambleOut s.decodedLen := by
  rcases hi with rfl | ⟨k, rfl⟩ <;> simp [abortRunning, hd]

theorem abortRunning_of_heapOrder (hd : decodeWord c = .ok .heapOrder) : abortRunning c s = s.scrambleOut s.symbolCount := by
  simp [abortRunning, hd]

/-- DECODE_PACKET: the region of OUT_MEM is there only where its PARSE step accepts the packet (log 9). -/
theorem abortRunning_of_decodePacket {k : Nat} (hd : decodeWord c = .ok (.decodePacket k)) :
    (∃ h, readHeader s = .ok h ∧ abortRunning c s = s.scrambleTree.scrambleTable.scrambleOut (max h.decLen h.nsym)) ∨
    (∃ e, readHeader s = .error e ∧ abortRunning c s = s.scrambleTree.scrambleTable) := by
  cases hh : readHeader s with
  | ok h => exact .inl ⟨h, rfl, by simp [abortRunning, hd, hh]⟩
  | error e => exact .inr ⟨e, rfl, by simp [abortRunning, hd, hh]⟩

theorem State.scrambleOut_byte_past (s : State) {n a : Nat} (ha : n ≤ a) : (s.scrambleOut n).out.byte a = s.out.byte a :=
  s.out.byte_put_zero_past (freeBytes_length _ _).le ha

/-- The region of OUT_MEM of an aborted DECODE_PACKET ends with the larger of the N and the D that its PARSE step reads (log 9). -/
theorem abortRunning_decodePacket_byte_past {k a : Nat} (hd : decodeWord c = .ok (.decodePacket k))
    (ha : max (s.le32 8) (s.le32 (20 + 8 * s.le32 8)) ≤ a) : (abortRunning c s).out.byte a = s.out.byte a := by
  rcases abortRunning_of_decodePacket (s := s) hd with ⟨h, hh, ht⟩ | ⟨e, _, ht⟩ <;> rw [ht]
  · obtain ⟨rfl, _⟩ := readHeader_ok hh
    exact State.scrambleOut_byte_past _ (by rwa [max_comm])
  · rfl

end

theorem abortRunning_frame (c : Word) (s : State) :
    abortRunning c s =
      { s with
        out := (abortRunning c s).out
        tree := (abortRunning c s).tree
        table := (abortRunning c s).table
        draws := (abortRunning c s).draws } := by
  cases hd : decodeWord c with
  | error e => rw [abortRunning_of_error hd]
  | ok i =>
    cases i with
    | nop | parse | clear => rw [abortRunning_of_noRegion hd (by simp)]
    | buildTree => rw [abortRunning_of_buildTree hd]; rfl
    | genTables => rw [abortRunning_of_genTables hd]; rfl
    | decode k => rw [abortRunning_of_decoder hd (.inr ⟨k, rfl⟩)]; rfl
    | treeDecode => rw [abortRunning_of_decoder hd (.inl rfl)]; rfl
    | heapOrder => rw [abortRunning_of_heapOrder hd]; rfl
    | decodePacket k =>
      rcases abortRunning_of_decodePacket (s := s) hd with ⟨h, _, ht⟩ | ⟨e, _, ht⟩
      · rw [ht]; rfl
      · rw [ht]; rfl

/-- An abort changes OUT_MEM, TREE_MEM and TABLE_MEM and takes draws; nothing else. -/
theorem State.abort_frame (s : State) :
    s.abort = { s with out := s.abort.out, tree := s.abort.tree, table := s.abort.table, draws := s.abort.draws } := by
  unfold State.abort
  cases s.fetched with
  | none => rfl
  | some c => exact abortRunning_frame c s

/-! ## Soft reset (70_reset_and_hazards.md R158) -/

@[simp] theorem State.softReset_out (s : State) : s.softReset.out = s.abort.out := rfl

@[simp] theorem State.softReset_tree (s : State) : s.softReset.tree = s.abort.tree := rfl

@[simp] theorem State.softReset_table (s : State) : s.softReset.table = s.abort.table := rfl

/-- Soft reset is the reset state but for the parameters, SYMTAB, the memories, with what the abort left of them, the pins, the pending
events, the host port and the model's own counter of draws. -/
theorem State.softReset_eq (s : State) :
    s.softReset =
      { State.reset with
        params := s.params
        pkt := s.pkt
        out := s.abort.out
        tree := s.abort.tree
        table := s.abort.table
        symtab := freeSymtab s.abort.draws
        rst := s.rst
        events := s.events
        resp := s.resp
        draws := s.abort.draws + 1 } := by
  rw [State.softReset, s.abort_frame]
  rfl

/-- A write to CTRL with bit 1 set is a soft reset, whatever its other bits are and whether or not a command runs. -/
theorem hostWrite_ctrl_srst {s : State} {v : Word} (hr : s.rst = false) (hv : v.getLsbD 1 = true) :
    hostWrite 4 0x00020 v s = s.softReset.answer false 0 := by
  rw [hostWrite_reg (r := .ctrl) hr rfl, State.writeReg, if_pos hv]

/-- Settles O57: the registers are those of `softReset_eq`; the three memories are those that the abort left, by the command that ran. -/
theorem softResetAborts : Obligations.SoftResetAborts := by
  intro s v hr hv
  rw [hostWrite_ctrl_srst hr hv]
  simp only [State.answer_out, State.answer_tree, State.answer_table, State.softReset_out, State.softReset_tree,
    State.softReset_table]
  refine ⟨?registers, fun hs => ?idle, fun c hs => ?running⟩
  case registers =>
    rw [State.softReset_eq, hr]
    exact ⟨_, _, _, _, _, _, rfl⟩
  case idle =>
    rw [State.abort_of_idle hs]
    exact ⟨rfl, rfl, rfl⟩
  case running =>
    rw [State.abort_of_running hs]
    refine ⟨fun e hd => ?illegal, fun i hd => ⟨?noRegion, ?buildTree, ?genTables, ?decoder, ?heapOrder, ?decodePacket⟩⟩
    case illegal =>
      rw [abortRunning_of_error hd]
      exact ⟨rfl, rfl, rfl⟩
    case noRegion =>
      intro hi
      rw [abortRunning_of_noRegion hd hi]
      exact ⟨rfl, rfl, rfl⟩
    case buildTree =>
      rintro rfl
      rw [abortRunning_of_buildTree hd]
      exact ⟨rfl, rfl⟩
    case genTables =>
      rintro rfl
      rw [abortRunning_of_genTables hd]
      exact ⟨rfl, rfl⟩
    case decoder =>
      intro hi
      rw [abortRunning_of_decoder hd hi]
      exact ⟨rfl, rfl, fun a ha => s.scrambleOut_byte_past ha⟩
    case heapOrder =>
      rintro rfl
      rw [abortRunning_of_heapOrder hd]
      exact ⟨rfl, rfl, fun a ha => s.scrambleOut_byte_past ha⟩
    case decodePacket =>
      rintro ⟨k, rfl⟩ a ha
      exact abortRunning_decodePacket_byte_past hd ha

end Machine
end Sys2Proof
end

section
/-! Encoding (30_encoding.md): the decoder and the encoder are inverse to each other, and what a parsed command assembles to. -/

namespace Sys2Proof

/-! ## The round trip (30_encoding.md §1) -/

/-- Every command's encoding has its fields (R69, R78). -/
theorem encode_fields (i : Instr) : Laws.EncodeFields.Statement i := by
  cases i with
  | nop => exact Laws.EncodeFields.nop
  | parse => exact Laws.EncodeFields.parse
  | buildTree => exact Laws.EncodeFields.buildTree
  | genTables => exact Laws.EncodeFields.genTables
  | decode k => exact Laws.EncodeFields.decode k
  | treeDecode => exact Laws.EncodeFields.treeDecode
  | heapOrder => exact Laws.EncodeFields.heapOrder
  | decodePacket k => exact Laws.EncodeFields.decodePacket k
  | clear => exact Laws.EncodeFields.clear

/-- Settles O1: the encoding's fields are those that the decoder asks for. -/
theorem decodeOfEncode : Obligations.DecodeOfEncode :=
  fun i hi => decodeWord_eq_ok_iff.2 (encode_fields i hi)

theorem kField_lt (w : Word) : kField w < 16 := (w.extractLsb' 8 4).isLt

/-- A command that a word decodes to is well-formed: its count comes from a 4-bit field. -/
theorem wf_of_decodeWord {w : Word} {i : Instr} (h : decodeWord w = .ok i) : i.wf = true := by
  obtain ⟨_, hk, _⟩ := decodeWord_eq_ok_iff.1 h
  have hlt := kField_lt w
  cases i with
  | decode k | decodePacket k => exact decide_eq_true (lt_of_eq_of_lt hk.symm hlt)
  | _ => rfl

/-- Settles O2: the word and the encoding of its command have the same three fields. -/
theorem encodeOfDecode : Obligations.EncodeOfDecode := by
  intro w i h
  have hwf := wf_of_decodeWord h
  obtain ⟨hop, hk, hrsv⟩ := decodeWord_eq_ok_iff.1 h
  obtain ⟨eop, ek, ersv⟩ := encode_fields i hwf
  exact ⟨hwf, word_eq_iff_fields.2 ⟨eop.trans hop.symm, ek.trans hk.symm, ersv.trans hrsv.symm⟩⟩

/-- Settles O4: the decoder on each of the twelve words. -/
theorem opcodeMapWords : Obligations.OpcodeMapWords := by
  unfold Obligations.OpcodeMapWords
  decide

/-! ## The assembler's commands (30_encoding.md §3) -/

namespace Machine

/-- A mnemonic with its operand stands for its command. -/
theorem instr?_of_instr (i : Instr) : AsmCommand.instr? { mnemonic := i.mnemonic, count := i.channelCount } = some i := by
  cases i <;> rfl

/-- What a written command stands for has its mnemonic and its operand. -/
theorem AsmCommand.instr?_eq_some {c : AsmCommand} {i : Instr} (h : c.instr? = some i) :
    c.mnemonic = i.mnemonic ∧ c.count = i.channelCount := by
  unfold AsmCommand.instr? at h
  split at h
  case h_1 hc =>
    have hmem := List.mem_of_find?_eq_some h
    have hname : i.mnemonic = c.mnemonic := by simpa using List.find?_some h
    have hnone : ∀ j ∈ [Instr.nop, .parse, .buildTree, .genTables, .treeDecode, .heapOrder, .clear], j.channelCount = none := by
      decide
    exact ⟨hname.symm, hc.trans (hnone i hmem).symm⟩
  case h_2 k hc =>
    have hmem := List.mem_of_find?_eq_some h
    have hname : i.mnemonic = c.mnemonic := by simpa using List.find?_some h
    have hsome : ∀ j ∈ [Instr.decode k, .decodePacket k], j.channelCount = some k := by
      simp [Instr.channelCount]
    exact ⟨hname.symm, hc.trans (hsome i hmem).symm⟩

/-- Settles O6: `instr?` finds exactly the command with the mnemonic and the operand, and `assemble` encodes it where K is in 1..15. -/
theorem assemblerWritesEncodings : Obligations.AssemblerWritesEncodings := by
  refine ⟨fun i hi => ?writes, fun c w h => ?refuses⟩
  case writes => simp only [AsmCommand.assemble, instr?_of_instr, if_pos hi]
  case refuses =>
    unfold AsmCommand.assemble at h
    split at h
    case h_1 i hi =>
      split at h
      case isTrue ha =>
        obtain ⟨hname, hcount⟩ := AsmCommand.instr?_eq_some hi
        exact ⟨i, ha, hname, hcount, (Option.some.inj h).symm⟩
      case isFalse => cases h
    case h_2 => cases h

end Machine
end Sys2Proof
end

section
/-! The commands' frames (10_state.md §6): what each command can write, how it completes (60_exceptions.md R140), and that every
step goes on (70_reset_and_hazards.md R170). -/

namespace Sys2Proof
namespace Machine

/-! ## The sequencer's turn (10_state.md R9, R44) -/

theorem sequencerStep_of_decodes {s : State} {c : Word} {i : Instr} (hs : s.sequencer = .running c) (hd : decodeWord c = .ok i) :
    sequencerStep s = exec i s := by
  simp only [sequencerStep, State.fetched, hs, hd]

theorem step_sequencer {s : State} {es : List Event} (he : s.events = .sequencer :: es) :
    step s = sequencerStep (s.withEvents es) := by
  rw [step, he]

theorem decodeWord_of_decodeTableWord {nbits w : Nat} {i : Instr} (h : decodeTableWord nbits w = some i) :
    decodeWord (tableWord nbits w) = .ok i := by
  unfold decodeTableWord at h
  split at h
  · rename_i j hj
    rw [hj, Option.some.inj h]
  · cases h

/-- Settles O7: both ways to the sequencer's turn reach `sequencerStep`, and accepting a word leaves it running. -/
theorem stepRunsDecodedCommand : Obligations.StepRunsDecodedCommand := by
  refine ⟨fun s c i hs hd => ⟨fun he => ?idleHost, fun es he => ?turn⟩, fun s nbits w i hw => ?placed⟩
  case idleHost => rw [step_of_no_events he, sequencerStep_of_decodes hs hd]
  case turn => rw [step_sequencer he, sequencerStep_of_decodes (s := s.withEvents es) hs hd, State.withEvents]
  case placed =>
    rw [step_sequencer (s := s.withFetchWord nbits w) (es := s.events) rfl,
      sequencerStep_of_decodes (s := (s.withFetchWord nbits w).withEvents s.events) rfl (decodeWord_of_decodeTableWord hw)]
    rfl

/-! ## Frames of the runs (10_state.md §6) -/

/-- PARSE writes the header registers, SYMTAB, the tree counts and PHASE. -/
theorem parseRun_frame (s : State) : ∃ hdr tab counts draws phase, (parseRun s).state =
    { s with hdr := hdr, symtab := tab, counts := counts, draws := draws, status := { s.status with phase := phase } } := by
  rcases parseRun_cases s with ⟨h, _, run⟩ | ⟨e, _, run⟩ <;> rw [run]
  · exact ⟨_, _, _, s.draws, _, rfl⟩
  · exact ⟨_, _, _, _, _, rfl⟩

/-- BUILD_TREE writes TREE_MEM, the tree counts and PHASE. -/
theorem buildTreeRun_frame (s : State) : ∃ tree counts work phase, (buildTreeRun s).state =
    { s with tree := tree, counts := counts, work := work, status := { s.status with phase := phase } } := by
  rcases buildTreeRun_cases s with ⟨_, run⟩ | ⟨_, run⟩ <;> rw [run]
  · exact ⟨_, _, _, _, rfl⟩
  · exact ⟨s.tree, s.counts, s.work, s.status.phase, rfl⟩

/-- GEN_TABLES writes TABLE_MEM and PHASE. -/
theorem genTablesRun_frame (s : State) : ∃ table phase, (genTablesRun s).state =
    { s with table := table, status := { s.status with phase := phase } } := by
  rcases genTablesRun_cases s with ⟨_, run⟩ | ⟨_, run⟩ <;> rw [run]
  · exact ⟨_, _, rfl⟩
  · exact ⟨s.table, s.status.phase, rfl⟩

/-- HEAP_ORDER writes OUT_MEM and OUT_COUNT. -/
theorem heapOrderRun_frame (s : State) : ∃ out n work, (heapOrderRun s).state =
    { s with out := out, results := { s.results with outCount := n }, work := work } := by
  rcases heapOrderRun_cases s with ⟨_, run⟩ | ⟨_, run⟩ <;> rw [run]
  · exact ⟨_, _, _, rfl⟩
  · exact ⟨s.out, s.results.outCount, s.work, rfl⟩

/-- TREE_DECODE writes OUT_MEM and the three result registers. -/
theorem treeDecodeRun_frame (s : State) : ∃ out results draws, (treeDecodeRun s).state =
    { s with out := out, results := results, draws := draws } := by
  rcases treeDecodeRun_cases s with ⟨w, fin, _, _, run⟩ | ⟨e, _, _, run⟩ | ⟨_, run⟩ <;> rw [run]
  · exact ⟨_, _, s.draws, rfl⟩
  · exact ⟨_, _, _, rfl⟩
  · exact ⟨s.out, s.results, s.draws, rfl⟩

theorem mergeResult_frame (s : State) (k : Nat) (m : Merger) : ∃ out results conv draws, (mergeResult s k m).state =
    { s with out := out, results := results, conv := conv, draws := draws } := by
  rcases mergeResult_cases s k m with ⟨e, _, _, h⟩ | ⟨e, _, _, h⟩ | ⟨_, _, h⟩ | ⟨_, _, h⟩ <;> rw [h]
  · exact ⟨_, _, _, _, rfl⟩
  · exact ⟨_, _, s.conv, _, rfl⟩
  · exact ⟨_, _, _, s.draws, rfl⟩
  · exact ⟨_, _, _, _, rfl⟩

/-- DECODE writes OUT_MEM, the three result registers, CH_START and CH_CONV. -/
theorem decodeRun_frame (k : Nat) (s : State) : ∃ out results conv work draws, (decodeRun k s).state =
    { s with out := out, results := results, conv := conv, work := work, draws := draws } := by
  rcases decodeRun_cases k s with ⟨_, run⟩ | ⟨e, _, _, _, run⟩ | ⟨cs, _, _, _, run⟩ | ⟨_, _, run⟩ <;> rw [run]
  · exact ⟨s.out, s.results, s.conv, s.work, s.draws, rfl⟩
  · exact ⟨_, _, s.conv, s.work, _, rfl⟩
  · obtain ⟨out, results, conv, draws, h⟩ := mergeResult_frame (s.setWork { s.work with channels := cs }) k
      ((s.setWork { s.work with channels := cs }).merge k)
    refine ⟨out, results, conv, Workspace.none, draws, ?_⟩
    rw [CommandResult.releaseWork, h]
    rfl
  · exact ⟨s.out, s.results, s.conv, s.work, s.draws, rfl⟩

/-- DECODE_PACKET writes what its four steps write. -/
theorem decodePacketRun_frame (k : Nat) (s : State) : ∃ hdr tab counts tree table out results conv work draws phase,
    (decodePacketRun k s).state =
      { s with
        hdr := hdr, symtab := tab, counts := counts, tree := tree, table := table, out := out, results := results, conv := conv
        work := work, draws := draws, status := { s.status with phase := phase } } := by
  rcases decodePacketRun_cases k s with ⟨_, run⟩ | ⟨e, _, _, _, run⟩ | ⟨h, _, _, run⟩ <;> rw [run]
  · exact ⟨s.hdr, s.symtab, s.counts, s.tree, s.table, s.out, s.results, s.conv, s.work, s.draws, s.status.phase, rfl⟩
  · exact ⟨_, _, _, s.tree, s.table, s.out, s.results, s.conv, s.work, _, _, rfl⟩
  · obtain ⟨tree, counts, _, _, built⟩ := buildTreeRun_frame (s.latchHeader h.registers (latchedSymtab s h.nsym))
    obtain ⟨table, phase, generated⟩ :=
      genTablesRun_frame (buildTreeRun (s.latchHeader h.registers (latchedSymtab s h.nsym))).state
    obtain ⟨out, results, conv, work, draws, decoded⟩ :=
      decodeRun_frame k (genTablesRun (buildTreeRun (s.latchHeader h.registers (latchedSymtab s h.nsym))).state).state
    exact ⟨_, _, counts, tree, table, out, results, conv, work, draws, phase, by rw [decoded, generated, built]; rfl⟩

/-- What no command writes: CTRL, PKT_LEN, CONV_LIMIT, the sticky STATUS bits, the parameters, PKT_MEM, the pins and the host port. -/
structure State.KeepsHostSide (s t : State) : Prop where
  params : t.params = s.params
  irqEn : t.irqEn = s.irqEn
  pktLen : t.pktLen = s.pktLen
  convLimit : t.convLimit = s.convLimit
  pkt : t.pkt = s.pkt
  rst : t.rst = s.rst
  events : t.events = s.events
  resp : t.resp = s.resp
  cmdDrop : t.status.cmdDrop = s.status.cmdDrop
  accDrop : t.status.accDrop = s.status.accDrop
  busErr : t.status.busErr = s.status.busErr

theorem runOf_keepsHostSide (i : Instr) (s : State) : s.KeepsHostSide (runOf i s).state := by
  cases i with
  | nop | clear => constructor <;> rfl
  | parse =>
    obtain ⟨_, _, _, _, _, h⟩ := parseRun_frame s
    rw [runOf, h]
    constructor <;> rfl
  | buildTree =>
    obtain ⟨_, _, _, _, h⟩ := buildTreeRun_frame s
    rw [runOf, h]
    constructor <;> rfl
  | genTables =>
    obtain ⟨_, _, h⟩ := genTablesRun_frame s
    rw [runOf, h]
    constructor <;> rfl
  | decode k =>
    obtain ⟨_, _, _, _, _, h⟩ := decodeRun_frame k s
    rw [runOf, h]
    constructor <;> rfl
  | treeDecode =>
    obtain ⟨_, _, _, h⟩ := treeDecodeRun_frame s
    rw [runOf, h]
    constructor <;> rfl
  | heapOrder =>
    obtain ⟨_, _, _, h⟩ := heapOrderRun_frame s
    rw [runOf, h]
    constructor <;> rfl
  | decodePacket k =>
    obtain ⟨_, _, _, _, _, _, _, _, _, _, _, h⟩ := decodePacketRun_frame k s
    rw [runOf, h]
    constructor <;> rfl

/-- Completion adds only STATUS's own fields, ERR_INFO and the sequencer. -/
theorem State.KeepsHostSide.finish {s t : State} (h : s.KeepsHostSide t) (op : Byte) (e : Ending) :
    s.KeepsHostSide (t.finish op e) := by
  obtain ⟨h1, h2, h3, h4, h5, h6, h7, h8, h9, h10, h11⟩ := h
  exact ⟨h1, h2, h3, h4, h5, h6, h7, h8, h9, h10, h11⟩

/-- Settles O28: the first clause holds of every command, the others are read off the command's frame. -/
theorem commandsWriteOnlyTheirRows : Obligations.CommandsWriteOnlyTheirRows := by
  intro i s t ht
  obtain rfl := exec_eq_next.1 ht
  obtain ⟨params, irqEn, pktLen, convLimit, pkt, rst, events, resp, cmdDrop, accDrop, busErr⟩ :=
    (runOf_keepsHostSide i s).finish i.opcode (runOf i s).ending
  refine ⟨⟨params, irqEn, pktLen, convLimit, pkt, rst, events, resp, cmdDrop, accDrop, busErr⟩, ?_⟩
  cases i with
  | nop => simp [runOf]
  | clear => simp [runOf]
  | parse =>
    obtain ⟨_, _, _, _, _, h⟩ := parseRun_frame s
    simp [runOf, h]
  | buildTree =>
    obtain ⟨_, _, _, _, h⟩ := buildTreeRun_frame s
    simp [runOf, h]
  | genTables =>
    obtain ⟨_, _, h⟩ := genTablesRun_frame s
    simp [runOf, h]
  | decode k =>
    obtain ⟨_, _, _, _, _, h⟩ := decodeRun_frame k s
    simp [runOf, h]
  | treeDecode =>
    obtain ⟨_, _, _, h⟩ := treeDecodeRun_frame s
    simp [runOf, h]
  | heapOrder =>
    obtain ⟨_, _, _, h⟩ := heapOrderRun_frame s
    simp [runOf, h]
  | decodePacket k => simp

/-! ## Completion (60_exceptions.md R140) -/

/-- DECODE that ends with code 0 ends with success. -/
theorem decodeRun_ending_of_ok {k : Nat} {s : State} (h : (decodeRun k s).ending.code = .ok) :
    (decodeRun k s).ending = Ending.success := by
  rcases decodeRun_ending k s with hs | ⟨w, hw⟩ | hc | hc | hc
  · exact hs
  · simp [hw, lengthEnding] at h
  · simp [hc] at h
  · simp [hc] at h
  · simp [hc] at h

theorem treeDecodeRun_ending_of_ok {s : State} (h : (treeDecodeRun s).ending.code = .ok) :
    (treeDecodeRun s).ending = Ending.success := by
  rcases treeDecodeRun_ending s with hs | ⟨w, hw⟩ | hc | hc
  · exact hs
  · simp [hw, lengthEnding] at h
  · simp [hc] at h
  · simp [hc] at h

/-- Every run that ends with code 0 ends with success, so with 0 for ERR_INFO. -/
theorem runOf_ending_of_ok {i : Instr} {s : State} (h : (runOf i s).ending.code = .ok) : (runOf i s).ending = Ending.success := by
  cases i with
  | nop | clear => rfl
  | parse =>
    rcases parseRun_cases s with ⟨p, _, run⟩ | ⟨e, he, run⟩ <;> rw [runOf, run] at h ⊢
    · rfl
    · rcases readHeader_error he with hc | hc | hc <;> simp [hc] at h
  | buildTree =>
    rcases buildTreeRun_cases s with ⟨_, run⟩ | ⟨_, run⟩ <;> rw [runOf, run] at h ⊢
    · rfl
    · cases h
  | genTables =>
    rcases genTablesRun_cases s with ⟨_, run⟩ | ⟨_, run⟩ <;> rw [runOf, run] at h ⊢
    · rfl
    · cases h
  | heapOrder =>
    rcases heapOrderRun_cases s with ⟨_, run⟩ | ⟨_, run⟩ <;> rw [runOf, run] at h ⊢
    · rfl
    · cases h
  | decode k => exact decodeRun_ending_of_ok h
  | treeDecode => exact treeDecodeRun_ending_of_ok h
  | decodePacket k =>
    rcases decodePacketRun_cases k s with ⟨_, run⟩ | ⟨e, _, _, hne, run⟩ | ⟨p, _, _, run⟩ <;> rw [runOf, run] at h ⊢
    · cases h
    · exact absurd h hne
    · exact decodeRun_ending_of_ok h

/-- Settles O10: completion writes the fields, and a run with code 0 has 0 for ERR_INFO. -/
theorem everyCommandCompletes : Obligations.EveryCommandCompletes := by
  intro i s
  refine ⟨_, exec_next i s, rfl, rfl, rfl, rfl, decide_eq_true_iff, fun h => ?_⟩
  rw [State.finish_errInfo, runOf_ending_of_ok h, Ending.success_info]

/-! ## Every step goes on (70_reset_and_hazards.md R170) -/

/-- An abort and a soft reset keep the parameters (R171). -/
@[simp] theorem State.softReset_params (s : State) : s.softReset.params = s.params := by
  rw [State.softReset_eq]

@[simp] theorem State.hardwareReset_params (s : State) : s.hardwareReset.params = s.params := rfl

theorem writeReg_params (s : State) (v : Word) (r : Reg) : (s.writeReg v r).params = s.params := by
  cases r with
  | ctrl => simp only [State.writeReg]; split <;> simp
  | cmd | pktLen | convLimit => simp only [State.writeReg]; split <;> simp
  | _ => rfl

theorem writeWindow_params (s : State) (off : Nat) (v : Word) : (s.writeWindow off v).params = s.params := by
  unfold State.writeWindow
  split
  · exact writeReg_params s v _
  · rfl

theorem writeData_params (s : State) (n : Nat) (a : HostAddr) (v : Word) : (s.writeData n a v).params = s.params := by
  unfold State.writeData
  split
  · exact writeWindow_params s _ v
  all_goals rfl

theorem hostRead_params (n : Nat) (a : HostAddr) (s : State) : (hostRead n a s).params = s.params := by
  rcases hostRead_cases n a s with ⟨_, h⟩ | ⟨_, _, h⟩ | ⟨_, _, _, _, h⟩ | ⟨_, _, _, h⟩ <;> rw [h] <;> rfl

theorem hostWrite_params (n : Nat) (a : HostAddr) (v : Word) (s : State) : (hostWrite n a v s).params = s.params := by
  rcases hostWrite_cases n a v s with ⟨_, h⟩ | ⟨_, _, h⟩ | ⟨_, _, _, _, h⟩ | ⟨_, _, _, h⟩ <;> rw [h]
  · rfl
  · rfl
  · rfl
  · exact writeData_params s n a v

/-- The sequencer's move goes on and keeps the parameters. -/
theorem sequencerStep_goesOn (s : State) : ∃ t, sequencerStep s = .next t ∧ t.params = s.params := by
  rcases sequencerStep_cases s with ⟨_, h⟩ | ⟨c, i, _, _, h⟩ | ⟨c, e, _, _, h⟩ <;> rw [h]
  · exact ⟨s, rfl, rfl⟩
  · exact ⟨_, exec_next i s, (runOf_keepsHostSide i s).params⟩
  · exact ⟨_, rfl, rfl⟩

/-- Settles O8: each kind of step has its next state, and none of them touches the parameters. -/
theorem stepAlwaysGoesOn : Obligations.StepAlwaysGoesOn := by
  intro s
  rcases step_cases s with ⟨_, h⟩ | ⟨es, _, h⟩ | ⟨n, a, es, _, h⟩ | ⟨n, a, v, es, _, h⟩ | ⟨es, _, h⟩ | ⟨es, _, h⟩ <;> rw [h]
  · exact sequencerStep_goesOn s
  · exact sequencerStep_goesOn (s.withEvents es)
  · exact ⟨_, rfl, hostRead_params n a (s.withEvents es)⟩
  · exact ⟨_, rfl, hostWrite_params n a v (s.withEvents es)⟩
  · exact ⟨_, rfl, rfl⟩
  · exact ⟨_, rfl, rfl⟩

end Machine
end Sys2Proof
end

section
/-! The commands that write memories, one equation per ending: HEAP_ORDER and BUILD_TREE (42_tree.md §3), TREE_DECODE and DECODE
(44_decode.md), and what a failed decode leaves (60_exceptions.md §3). -/

namespace Sys2Proof
namespace Machine

/-! ## HEAP_ORDER (42_tree.md R101) -/

/-- A refusal for the phase, completed (60_exceptions.md R144, R145). -/
theorem exec_of_raiseSeq {i : Instr} {s : State} (h : runOf i s = raiseSeq s) :
    exec i s = .next
      { s with
        errInfo := BitVec.ofNat 32 s.status.phase.toNat, status := s.status.failed i.opcode .seq, sequencer := .idle } := by
  rw [exec_next, h]
  rfl

theorem heapOrderRun_of_early {s : State} (hp : s.phaseAtLeast .parsed = false) : heapOrderRun s = raiseSeq s := by
  simp [heapOrderRun, hp]

theorem heapOrderRun_of_parsed {s : State} (hp : s.phaseAtLeast .parsed = true) :
    heapOrderRun s =
      succeed ((s.storeOrder (orderedSymbols s.symbols (seedHeap s.symbols)) s.hdr.nsym).setWork Workspace.none) := by
  rw [heapOrderRun, if_pos hp]
  rfl

/-- Settles O15: the phase decides between the refusal and the pop order. -/
theorem heapOrderWritesPopOrder : Obligations.HeapOrderWritesPopOrder := by
  refine ⟨by decide, fun s => ⟨fun early => ?early, fun late => ?late⟩⟩
  case early => exact exec_of_raiseSeq (i := .heapOrder) (heapOrderRun_of_early (decide_eq_false (not_le.2 early)))
  case late =>
    rw [exec_next, runOf, heapOrderRun_of_parsed (decide_eq_true late)]
    rfl

/-! ## BUILD_TREE (42_tree.md R102) -/

theorem buildTreeRun_of_early {s : State} (hp : s.phaseAtLeast .parsed = false) : buildTreeRun s = raiseSeq s := by
  simp [buildTreeRun, hp]

/-- MAX_CODE_LEN of a symbol table: its deepest leaf (R102). -/
def maxCodeLenOf (symbols : List SymEntry) : Nat := deepestLeaf (grownTree symbols).2 (rootOf (grownTree symbols).1)

theorem buildTreeRun_of_parsed {s : State} (hp : s.phaseAtLeast .parsed = true) :
    buildTreeRun s =
      succeed ((s.storeTree (treeImage (treeOf s.symbols)) (countsFor s.symbolCount (maxCodeLenOf s.symbols))).setWork
        Workspace.none) := by
  rw [buildTreeRun, if_pos hp]
  rfl

/-- Node i stands at bytes 4i to 4i + 3 (R99). -/
theorem flatMap_toBytes_node (nodes : List TreeNode) {i : Nat} (hi : i < nodes.length) :
    ((nodes.flatMap TreeNode.toBytes).drop (4 * i)).take 4 = nodes[i].toBytes := by
  induction nodes generalizing i with
  | nil => simp at hi
  | cons n ns ih =>
    cases i with
    | zero => rfl
    | succ i =>
      have hdrop : ((n :: ns).flatMap TreeNode.toBytes).drop (4 * (i + 1)) = (ns.flatMap TreeNode.toBytes).drop (4 * i) := by
        rw [List.flatMap_cons, show 4 * (i + 1) = n.toBytes.length + 4 * i from Nat.add_comm _ _, List.drop_length_add_append]
      rw [hdrop, ih (Nat.lt_of_succ_lt_succ hi), List.getElem_cons_succ]

/-- The unused entries read as what a node beyond the last one reads as. -/
@[simp] theorem nodeAt_treeEntries (nodes : List TreeNode) (i : Nat) : nodeAt (treeEntries nodes) i = nodeAt nodes i := by
  rw [nodeAt, nodeAt, treeEntries, List.getD_eq_getElem?_getD, List.getD_eq_getElem?_getD]
  by_cases hi : i < nodes.length
  · rw [List.getElem?_append_left hi]
  · rw [List.getElem?_append_right (not_lt.1 hi), List.getElem?_eq_none (not_lt.1 hi), List.getElem?_replicate]
    split <;> rfl

/-- The bytes of one entry of TREE_MEM after BUILD_TREE (R99). -/
theorem bytes_put_treeImage (m : Memory) {nodes : List TreeNode} (hn : nodes.length ≤ Config.maxNodes) {i : Nat}
    (hi : i < Config.maxNodes) : (m.put 0 (treeImage nodes)).bytes (4 * i) 4 = (nodeAt nodes i).toBytes := by
  have hlen := treeEntries_length hn
  have hbytes : 4 * i + 4 ≤ (treeImage nodes).length := by
    rw [treeImage, flatMap_toBytes_length, hlen]
    omega
  rw [Memory.bytes_put_zero m _ hbytes, treeImage, flatMap_toBytes_node _ (by omega), ← nodeAt_treeEntries, nodeAt,
    List.getD_eq_getElem]

/-- Settles O17: from PARSED on the run stores the image and the counts, and the image is the nodes one after the other. -/
theorem buildTreeWritesTree : Obligations.BuildTreeWritesTree := by
  refine ⟨by decide, fun s => ⟨fun early => ?early, fun late => ?late⟩⟩
  case early => exact exec_of_raiseSeq (i := .buildTree) (buildTreeRun_of_early (decide_eq_false (not_le.2 early)))
  case late =>
    refine ⟨_, exec_next .buildTree s, ?state, fun i hi => ?entries⟩
    case state =>
      rw [runOf, buildTreeRun_of_parsed (decide_eq_true late)]
      rfl
    case entries =>
      rw [runOf, buildTreeRun_of_parsed (decide_eq_true late)]
      refine (bytes_put_treeImage s.tree (treeOf_symbols_length s) hi).trans ?_
      split
      · rfl
      · rw [nodeAt, List.getD_eq_default _ _ (by omega)]
        rfl

/-! ## TREE_DECODE (44_decode.md R130) -/

section
variable {s : State}

theorem treeDecodeRun_of_early (hp : s.phaseAtLeast .tree = false) : treeDecodeRun s = raiseSeq s := by
  simp [treeDecodeRun, hp]

theorem treeDecodeRun_of_ok {w : TreeWalk} {fin : Nat} (hp : s.phaseAtLeast .tree = true)
    (hw : treeWalk s.tree.nodes s.counts.nodes.toNat s.decodedLen s.bitCount (streamBits s.stream) = .ok (w, fin)) :
    treeDecodeRun s = succeed (s.storeDecoded w.rev.reverse (decodedRegs s w.p fin)) := by
  simp only [treeDecodeRun, hp, if_true, hw]

theorem treeDecodeRun_of_error {e : Ending} (hp : s.phaseAtLeast .tree = true)
    (hw : treeWalk s.tree.nodes s.counts.nodes.toNat s.decodedLen s.bitCount (streamBits s.stream) = .error e) :
    treeDecodeRun s = failDecode s e := by
  simp only [treeDecodeRun, hp, if_true, hw]

end

/-- A walk that fails has a code other than 0. -/
theorem treeWalk_error_code {nodes : List TreeNode} {count d b : Nat} {bits : List Bool} {e : Ending}
    (h : treeWalk nodes count d b bits = .error e) : e.code = .length ∨ e.code = .corrupt := by
  rcases treeWalk_cases nodes count d b bits with ⟨w, fin, h', _⟩ | ⟨w, h'⟩ | ⟨x, h'⟩ <;> rw [h] at h' <;> cases h'
  · exact .inl rfl
  · exact .inr rfl

/-- The completion of a failed decode on its own: OUT_MEM from D on stays (60_exceptions.md R146). -/
theorem failDecode_finish (s : State) (op : Byte) {e : Ending} (he : e.code ≠ .ok) :
    (failDecode s e).state.finish op (failDecode s e).ending =
      { s with
        out := (s.voidOutput s.decodedLen).out
        draws := s.draws + 1
        results := { outCount := 0, bitsUsed := 0, finalState := 0 }
        errInfo := e.info
        status := s.status.failed op e.code
        sequencer := .idle } := by
  rw [failDecode, State.finish, decide_eq_true he]
  rfl

theorem voidOutput_byte_past (s : State) {d a : Nat} (ha : d ≤ a) : (s.voidOutput d).out.byte a = s.out.byte a :=
  s.out.byte_put_zero_past (freeBytes_length _ _).le ha

/-- Settles O21: the two endings of the walk are the two endings of the run. -/
theorem treeDecodeWritesWalk : Obligations.TreeDecodeWritesWalk := by
  intro s hp
  have htree : s.phaseAtLeast .tree = true := decide_eq_true hp
  refine ⟨fun w fin hw => ⟨(treeWalk_ok hw).1, ?ok⟩, fun e he => ?error⟩
  case ok =>
    rw [exec_next, runOf, treeDecodeRun_of_ok htree hw]
    rfl
  case error =>
    have raised : e.code ≠ .ok := by rcases treeWalk_error_code he with h | h <;> simp [h]
    refine ⟨_, s.draws + 1, fun a ha => voidOutput_byte_past s ha, ?_⟩
    rw [exec_next, runOf, treeDecodeRun_of_error htree he, failDecode_finish s _ raised]
    rfl

/-! ## DECODE (44_decode.md R116, R118, R129) -/

theorem State.badCount_of_inRange {s : State} {k : Nat} (h1 : 1 ≤ k) (hmax : k ≤ s.params.kMax) : s.badCount k = false := by
  rw [Bool.eq_false_iff, Ne, State.badCount_eq_true_iff]
  omega

section
variable {s : State} {k : Nat} (hk : s.badCount k = false)
include hk

theorem decodeRun_of_early (hp : s.status.phase ≠ .tables) : decodeRun k s = raiseSeq s := by
  simp [decodeRun, hk, hp]

theorem decodeRun_of_speculate_error {e : Ending} (hp : s.status.phase = .tables)
    (hs : speculate s.table s.counts.states.toNat (s.segments k) = .error e) : decodeRun k s = failDecode s e := by
  simp only [decodeRun, hk, hp, hs, Bool.false_eq_true, if_false, if_true]

theorem decodeRun_of_speculate_ok {cs : List Channel} (hp : s.status.phase = .tables)
    (hs : speculate s.table s.counts.states.toNat (s.segments k) = .ok cs) :
    decodeRun k s =
      (mergeResult (s.setWork { s.work with channels := cs }) k ((s.setWork { s.work with channels := cs }).merge k)).releaseWork := by
  simp only [decodeRun, hk, hp, hs, Bool.false_eq_true, if_false, if_true]

end

/-- The slot check of R118, byte by byte of the slot. -/
theorem readSlot_eq (table : Memory) (states st : Nat) (v : Byte) :
    readSlot table states st v =
      if states ≤ st ∨ 8 < (table.byte ((st * 256 + v.toNat) * 16 + 8)).toNat ∨
          states ≤ (table.byte ((st * 256 + v.toNat) * 16 + 9)).toNat ∨
          (setBits (table.byte ((st * 256 + v.toNat) * 16 + 10))).length ≠ (table.byte ((st * 256 + v.toNat) * 16 + 8)).toNat then
        .error { code := .corrupt, info := BitVec.ofNat 32 (st * 256 + v.toNat) }
      else
        .ok
          { syms := table.bytes ((st * 256 + v.toNat) * 16) (table.byte ((st * 256 + v.toNat) * 16 + 8)).toNat
            next := (table.byte ((st * 256 + v.toNat) * 16 + 9)).toNat
            mask := table.byte ((st * 256 + v.toNat) * 16 + 10) } := by
  have field : ∀ j < 11, (table.bytes ((st * 256 + v.toNat) * 16) 11).getD j 0 = table.byte ((st * 256 + v.toNat) * 16 + j) :=
    fun j hj => table.bytes_getD _ hj 0
  simp only [readSlot, Config.slotBytes, Config.maxEmit, field 8 (by omega), field 9 (by omega), field 10 (by omega)]
  split
  · rfl
  · rename_i hok
    have hcount : (table.byte ((st * 256 + v.toNat) * 16 + 8)).toNat ≤ 11 := by omega
    rw [← Nat.add_sub_cancel' hcount, Memory.bytes_append, List.take_left' (table.bytes_length _ _)]

/-- Settles O20: the check of R118 is `readSlot`'s own, and what the speculative pass raises is E_CORRUPT and DECODE's outcome. -/
theorem invalidSlotRaisesCorrupt : Obligations.InvalidSlotRaisesCorrupt := by
  refine ⟨readSlot_eq, fun s k e hp h1 hmax he => ⟨speculate_error he, _, s.draws + 1, fun a ha => voidOutput_byte_past s ha, ?_⟩⟩
  have hcode := speculate_error he
  rw [exec_next, runOf, decodeRun_of_speculate_error (State.badCount_of_inRange h1 hmax) hp he,
    failDecode_finish s _ (by simp [hcode]), hcode]
  rfl

/-! ## What a failed decode leaves (60_exceptions.md R146, R147) -/

/-- The run of a decode that ended with E_LENGTH or E_CORRUPT. -/
structure FailedDecode (s : State) (r : CommandResult) : Prop where
  results : r.state.results = State.reset.results
  conv : r.ending.code = .corrupt → r.state.conv = s.conv

theorem failDecode_failedDecode (s : State) (e : Ending) : FailedDecode s (failDecode s e) := ⟨rfl, fun _ => rfl⟩

/-- A run that ends with E_LENGTH or E_CORRUPT. -/
def Ending.FailsDecode (e : Ending) : Prop := e.code = .length ∨ e.code = .corrupt

theorem mergeResult_failedDecode {s : State} {k : Nat} {m : Merger} (h : (mergeResult s k m).ending.FailsDecode) :
    FailedDecode s (mergeResult s k m) := by
  rcases mergeResult_cases s k m with ⟨e, _, hlen, run⟩ | ⟨e, _, _, run⟩ | ⟨_, _, run⟩ | ⟨_, _, run⟩ <;> rw [run] at h ⊢
  · exact ⟨rfl, fun hc => by simp [failDecode, hlen] at hc⟩
  · exact failDecode_failedDecode s e
  · simp [Ending.FailsDecode] at h
  · exact ⟨rfl, nofun⟩

theorem decodeRun_failedDecode {s : State} {k : Nat} (h : (decodeRun k s).ending.FailsDecode) : FailedDecode s (decodeRun k s) := by
  rcases decodeRun_cases k s with ⟨_, run⟩ | ⟨e, _, _, _, run⟩ | ⟨cs, _, _, _, run⟩ | ⟨_, _, run⟩ <;> rw [run] at h ⊢
  · simp [Ending.FailsDecode, raiseBadArg] at h
  · exact failDecode_failedDecode s e
  · obtain ⟨results, conv⟩ := mergeResult_failedDecode h
    exact ⟨results, conv⟩
  · simp [Ending.FailsDecode, raiseSeq] at h

theorem treeDecodeRun_failedDecode {s : State} (h : (treeDecodeRun s).ending.FailsDecode) : FailedDecode s (treeDecodeRun s) := by
  rcases treeDecodeRun_cases s with ⟨w, fin, _, _, run⟩ | ⟨e, _, _, run⟩ | ⟨_, run⟩ <;> rw [run] at h ⊢
  · simp [Ending.FailsDecode] at h
  · exact failDecode_failedDecode s e
  · simp [Ending.FailsDecode, raiseSeq] at h

theorem treeDecodeRun_conv (s : State) : (treeDecodeRun s).state.conv = s.conv := by
  obtain ⟨_, _, _, h⟩ := treeDecodeRun_frame s
  rw [h]

/-- A DECODE_PACKET that ends with E_LENGTH or E_CORRUPT does so in its DECODE step, with PHASE = TABLES (R147). -/
theorem decodePacketRun_failedDecode {s : State} {k : Nat} (h : (decodePacketRun k s).ending.FailsDecode) :
    (decodePacketRun k s).state.results = State.reset.results ∧ (decodePacketRun k s).state.status.phase = .tables := by
  rcases decodePacketRun_cases k s with ⟨_, run⟩ | ⟨e, _, he, _, run⟩ | ⟨p, _, _, run⟩ <;> rw [run] at h ⊢
  · simp [Ending.FailsDecode, raiseBadArg] at h
  · rcases readHeader_error he with hc | hc | hc <;> simp [Ending.FailsDecode, hc] at h
  · refine ⟨(decodeRun_failedDecode h).results, ?_⟩
    obtain ⟨_, _, _, _, _, frame⟩ :=
      decodeRun_frame k (genTablesRun (buildTreeRun (s.latchHeader p.registers (latchedSymtab s p.nsym))).state).state
    rw [frame]
    rfl

/-- Settles O27: the runs' own effects, and the frames of DECODE and TREE_DECODE. -/
theorem failedDecodeEffects : Obligations.FailedDecodeEffects := by
  refine ⟨fun i s t hi ht hf => ?alone, fun k s t ht hf => ?packet⟩
  case alone =>
    have past := (outputPastTheEndUnchanged s t · |>.1 (by rcases hi with rfl | ⟨k, rfl⟩; exacts [.inr ht, .inl ⟨k, ht⟩]))
    obtain rfl := exec_eq_next.1 ht
    rcases hi with rfl | ⟨k, rfl⟩
    · obtain ⟨_, _, _, frame⟩ := treeDecodeRun_frame s
      refine ⟨(treeDecodeRun_failedDecode hf).results, past, ?_, ?_, ?_, fun _ => treeDecodeRun_conv s⟩ <;> simp [runOf, frame]
    · obtain ⟨_, _, _, _, _, frame⟩ := decodeRun_frame k s
      refine ⟨(decodeRun_failedDecode hf).results, past, ?_, ?_, ?_, ?_⟩
      · simp [runOf, frame]
      · simp [runOf, frame]
      · simp [runOf, frame]
      · rintro (hi | hc)
        · cases hi
        · exact (decodeRun_failedDecode hf).conv hc
  case packet =>
    have past := (outputPastTheEndUnchanged s t · |>.2.2 ⟨k, ht⟩)
    obtain rfl := exec_eq_next.1 ht
    exact ⟨(decodePacketRun_failedDecode hf).1, past, (decodePacketRun_failedDecode hf).2⟩

/-! ## What a successful decode reports (44_decode.md R117, R130) -/

theorem State.bitCount_lt (s : State) : s.bitCount < 2 ^ 32 := s.hdr.bits.isLt

/-- A merger that has finished or has raised an error stays as it is. -/
theorem Merger.byte_of_stopped {m : Merger} (h : m.stopped = true) (table : Memory) (states d b limit j : Nat) (v : Byte) (e : Slot)
    (st : Nat) : m.byte table states d b limit j v e st = m := by
  rw [Merger.byte, if_pos h]

theorem Merger.enter_of_stopped {m : Merger} (h : m.stopped = true) (i : Nat) : m.enter i = m := by
  rw [Merger.enter, if_pos h]

theorem Merger.segment_of_stopped {m : Merger} (h : m.stopped = true) (table : Memory) (states d b limit j : Nat) (vs : List Byte)
    (es : List Slot) (sts : List Nat) : Merger.segment table states d b limit m j vs es sts = m := by
  induction vs generalizing j es sts with
  | nil => simp [Merger.segment]
  | cons v vs ih =>
    cases es with
    | nil => simp [Merger.segment]
    | cons e es =>
      cases sts with
      | nil => simp [Merger.segment]
      | cons st sts => rw [Merger.segment, Merger.byte_of_stopped h, ih]

theorem Merger.walk_of_stopped {m : Merger} (h : m.stopped = true) (table : Memory) (states d b limit i j : Nat)
    (segs : List (List Byte)) (cs : List Channel) : Merger.walk table states d b limit m i j segs cs = m := by
  induction segs generalizing i j cs with
  | nil => simp [Merger.walk]
  | cons seg segs ih =>
    cases cs with
    | nil => simp [Merger.walk]
    | cons c cs => rw [Merger.walk, Merger.enter_of_stopped h, Merger.segment_of_stopped h, ih]

/-- At D = 0 the merge is over before it begins. -/
theorem State.merge_of_decodedLen_zero {s : State} (hd : s.decodedLen = 0) (k : Nat) : s.merge k = Merger.start 0 := by
  rw [State.merge, hd, Merger.walk_of_stopped (m := Merger.start 0) rfl]

/-- At D = 0 the tree walk reads no bit. -/
theorem treeWalk_zero_bits {nodes : List TreeNode} {count b : Nat} {bits : List Bool} {w : TreeWalk} {fin : Nat}
    (h : treeWalk nodes count 0 b bits = .ok (w, fin)) : w.p = 0 := by
  cases bits <;> simp [treeWalk, walkSymbols] at h <;> rw [← h.1]

/-- The results of a decode that succeeded: D, and at most B bits, 0 of them at D = 0. -/
def GoodResults (s : State) (r : Results) : Prop :=
  r.outCount = s.hdr.decLen ∧ r.bitsUsed.toNat ≤ s.bitCount ∧ (s.decodedLen = 0 → r.bitsUsed = 0)

theorem decodedRegs_good {s : State} {bits fin : Nat} (hb : bits ≤ s.bitCount) (h0 : s.decodedLen = 0 → bits = 0) :
    GoodResults s (decodedRegs s bits fin) := by
  have hlt := s.bitCount_lt
  refine ⟨rfl, ?_, fun hd => by rw [decodedRegs, h0 hd]; rfl⟩
  show (BitVec.ofNat 32 bits).toNat ≤ s.bitCount
  rw [BitVec.toNat_ofNat, Nat.mod_eq_of_lt (by omega)]
  exact hb

theorem decodeRun_good {s : State} {k : Nat} (h : (decodeRun k s).ending.code = .ok) :
    GoodResults s (decodeRun k s).state.results := by
  rcases decodeRun_cases k s with ⟨_, run⟩ | ⟨e, _, _, he, run⟩ | ⟨cs, _, _, _, run⟩ | ⟨_, _, run⟩ <;> rw [run] at h ⊢
  · cases h
  · simp [failDecode, speculate_error he] at h
  · have fits := (s.setWork { s.work with channels := cs }).merge_fits k
    rcases mergeResult_cases (s.setWork { s.work with channels := cs }) k ((s.setWork { s.work with channels := cs }).merge k) with
      ⟨e, _, hlen, merged⟩ | ⟨e, hr, hne, merged⟩ | ⟨_, _, merged⟩ | ⟨_, _, merged⟩ <;>
      rw [merged] at h ⊢
    · simp [CommandResult.releaseWork, failDecode, hlen] at h
    · rcases fits.raised e hr with ⟨w, rfl⟩ | hc
      · exact absurd rfl hne
      · simp [CommandResult.releaseWork, failDecode, hc] at h
    · refine decodedRegs_good (s := s) fits.emitted.used fun hd => ?_
      rw [State.merge_of_decodedLen_zero (s := s.setWork { s.work with channels := cs }) hd]
      rfl
    · cases h
  · cases h

theorem treeDecodeRun_good {s : State} (h : (treeDecodeRun s).ending.code = .ok) : GoodResults s (treeDecodeRun s).state.results := by
  rcases treeDecodeRun_cases s with ⟨w, fin, _, hw, run⟩ | ⟨e, _, he, run⟩ | ⟨_, run⟩ <;> rw [run] at h ⊢
  · exact decodedRegs_good (treeWalk_ok hw).2 fun hd => treeWalk_zero_bits (by rwa [hd] at hw)
  · rcases treeWalk_error_code he with hc | hc <;> simp [failDecode, hc] at h
  · cases h

/-- Settles O40: a decode with code 0 stored `decodedRegs`. -/
theorem bitsUsedWithinStream : Obligations.BitsUsedWithinStream := by
  rintro i s t hi ht hok
  obtain rfl := exec_eq_next.1 ht
  rcases hi with rfl | ⟨k, rfl⟩
  · exact treeDecodeRun_good hok
  · exact decodeRun_good hok

end Machine
end Sys2Proof
end

section
/-! Repeating a command: a completion leaves nothing that a run reads, a decode that is issued again gives its results again
(44_decode.md R132), and a command that failed fails again (60_exceptions.md §4). -/

namespace Sys2Proof
namespace Machine

/-! ## A run after a completion -/

theorem parseRun_finish (s : State) (op : Byte) (e : Ending) : parseRun (s.finish op e) = (parseRun s).finishState op e := by
  have header : readHeader (s.finish op e) = readHeader s := readHeader_congr rfl rfl rfl
  rw [parseRun, parseRun, header]
  cases readHeader s <;> rfl

theorem heapOrderRun_finish (s : State) (op : Byte) (e : Ending) :
    heapOrderRun (s.finish op e) = (heapOrderRun s).finishState op e := by
  have phase : (s.finish op e).phaseAtLeast .parsed = s.phaseAtLeast .parsed := rfl
  rw [heapOrderRun, heapOrderRun, phase]
  cases s.phaseAtLeast .parsed <;> rfl

theorem treeDecodeRun_finish (s : State) (op : Byte) (e : Ending) :
    treeDecodeRun (s.finish op e) = (treeDecodeRun s).finishState op e := by
  rcases treeDecodeRun_cases s with ⟨w, fin, hp, hw, run⟩ | ⟨err, hp, hw, run⟩ | ⟨hp, run⟩ <;> rw [run]
  · rw [treeDecodeRun_of_ok (s := s.finish op e) hp hw]
    rfl
  · rw [treeDecodeRun_of_error (s := s.finish op e) hp hw]
    rfl
  · rw [treeDecodeRun_of_early (s := s.finish op e) hp]
    rfl

/-- A composite of two runs that see nothing of a completion sees nothing of it. -/
theorem CommandResult.andThen_finishState {op : Byte} {e : Ending} {f : State → CommandResult}
    (hf : ∀ s, f (s.finish op e) = (f s).finishState op e) (r : CommandResult) :
    (r.finishState op e).andThen f = (r.andThen f).finishState op e := by
  by_cases h : r.ending.code = .ok
  · rw [CommandResult.andThen_ok f h, CommandResult.andThen_ok (r := r.finishState op e) f h]
    exact hf r.state
  · rw [CommandResult.andThen_raised f h, CommandResult.andThen_raised (r := r.finishState op e) f h]

theorem decodePacketRun_finish (s : State) (op : Byte) (e : Ending) (k : Nat) :
    decodePacketRun k (s.finish op e) = (decodePacketRun k s).finishState op e := by
  have count : (s.finish op e).badCount k = s.badCount k := rfl
  rw [decodePacketRun, decodePacketRun, count]
  split
  · rfl
  · rw [parseRun_finish, CommandResult.andThen_finishState (fun s => buildTreeRun_finish s op e),
      CommandResult.andThen_finishState (fun s => genTablesRun_finish s op e),
      CommandResult.andThen_finishState (fun s => decodeRun_finish s op e k)]

/-- No run sees an earlier completion. -/
theorem runOf_finish (i : Instr) (s : State) (op : Byte) (e : Ending) : runOf i (s.finish op e) = (runOf i s).finishState op e := by
  cases i with
  | nop | clear => rfl
  | parse => exact parseRun_finish s op e
  | buildTree => exact buildTreeRun_finish s op e
  | genTables => exact genTablesRun_finish s op e
  | decode k => exact decodeRun_finish s op e k
  | treeDecode => exact treeDecodeRun_finish s op e
  | heapOrder => exact heapOrderRun_finish s op e
  | decodePacket k => exact decodePacketRun_finish s op e k

/-! ## The same decode again (44_decode.md R132) -/

/-- What DECODE reads: two states that agree on it decode alike. -/
structure State.SameDecodeInputs (s t : State) : Prop where
  params : t.params = s.params
  phase : t.status.phase = s.status.phase
  convLimit : t.convLimit = s.convLimit
  hdr : t.hdr = s.hdr
  counts : t.counts = s.counts
  pkt : t.pkt = s.pkt
  table : t.table = s.table

namespace State.SameDecodeInputs

variable {s t : State} (h : s.SameDecodeInputs t)
include h

theorem badCount (k : Nat) : t.badCount k = s.badCount k := by
  rw [State.badCount, State.badCount, h.params]

theorem stream : t.stream = s.stream := by
  simp only [State.stream, State.streamBase, State.streamLen, State.bitCount, State.symbolCount, h.hdr, h.pkt]

theorem segments (k : Nat) : t.segments k = s.segments k := by
  rw [State.segments, State.segments, h.stream]

theorem speculate (k : Nat) : speculate t.table t.counts.states.toNat (t.segments k) =
    Machine.speculate s.table s.counts.states.toNat (s.segments k) := by
  rw [h.table, h.counts, h.segments]

theorem merge (k : Nat) (cs : List Channel) :
    (t.setWork { t.work with channels := cs }).merge k = (s.setWork { s.work with channels := cs }).merge k := by
  have segments : (t.setWork { t.work with channels := cs }).segments k = (s.setWork { s.work with channels := cs }).segments k :=
    h.segments k
  rw [State.merge, State.merge, segments]
  simp only [State.setWork_table, State.setWork_counts, State.setWork_convLimit, State.setWork_work, State.decodedLen, State.bitCount,
    State.setWork_hdr, h.table, h.counts, h.convLimit, h.hdr]

end State.SameDecodeInputs

/-- How a merger makes DECODE end (44_decode.md R124, R129). -/
def Merger.ending (m : Merger) : Ending :=
  match m.raised, m.done with
  | some e, _ => e
  | none, true => Ending.success
  | none, false => lengthEnding m.emitted.w

theorem mergeResult_ending (s : State) (k : Nat) (m : Merger) : (mergeResult s k m).ending = m.ending := by
  rcases mergeResult_cases s k m with ⟨e, hr, _, h⟩ | ⟨e, hr, _, h⟩ | ⟨hr, hd, h⟩ | ⟨hr, hd, h⟩ <;> rw [h]
  · simp only [failDecode, Merger.ending, hr]
  · simp only [failDecode, Merger.ending, hr]
  · simp only [succeed_ending, Merger.ending, hr, hd]
  · simp only [failDecode, Merger.ending, hr, hd]

/-- States that DECODE cannot tell apart make it end alike. -/
theorem decodeRun_ending_congr {s t : State} (h : s.SameDecodeInputs t) (k : Nat) :
    (decodeRun k t).ending = (decodeRun k s).ending := by
  rcases decodeRun_cases k s with ⟨hk, run⟩ | ⟨e, hk, hp, hs, run⟩ | ⟨cs, hk, hp, hs, run⟩ | ⟨hk, hp, run⟩ <;> rw [run]
  · rw [decodeRun_of_badCount ((h.badCount k).trans hk)]
    rfl
  · rw [decodeRun_of_speculate_error ((h.badCount k).trans hk) (h.phase.trans hp) ((h.speculate k).trans hs)]
    rfl
  · rw [decodeRun_of_speculate_ok ((h.badCount k).trans hk) (h.phase.trans hp) ((h.speculate k).trans hs), CommandResult.releaseWork,
      CommandResult.releaseWork, mergeResult_ending, mergeResult_ending, h.merge]
  · rw [decodeRun_of_early ((h.badCount k).trans hk) (by rwa [h.phase])]
    simp only [raiseSeq, raiseErr_ending, h.phase]

/-- The run `r'` repeats the run `r` on the state that `r` left. -/
structure CommandResult.Repeats (r r' : CommandResult) : Prop where
  ending : r'.ending = r.ending
  status : r'.state.status = r.state.status
  results : r'.state.results = r.state.results
  conv : r'.state.conv = r.state.conv
  state : r.ending.code = .ok → r'.state = r.state

theorem CommandResult.repeats_self (r : CommandResult) : r.Repeats r := ⟨rfl, rfl, rfl, rfl, fun _ => rfl⟩

theorem CommandResult.repeats_of_state {r r' : CommandResult} (he : r'.ending = r.ending) (hs : r'.state = r.state) : r.Repeats r' :=
  ⟨he, hs ▸ rfl, hs ▸ rfl, hs ▸ rfl, fun _ => hs⟩

/-- A failed decode that fails again. -/
theorem failDecode_repeats (s : State) {e : Ending} (he : e.code ≠ .ok) : (failDecode s e).Repeats (failDecode (failDecode s e).state e) :=
  ⟨rfl, rfl, rfl, rfl, fun h => absurd h he⟩

/-- Storing the decoded bytes a second time changes nothing (44_decode.md R132). -/
theorem storeDecoded_storeDecoded (s : State) (bs : List Byte) (r : Results) :
    (s.storeDecoded bs r).storeDecoded bs r = s.storeDecoded bs r := by
  simp only [State.storeDecoded, Memory.put_put_self s.out 0 bs bs rfl]

/-- The same for DECODE, which writes CH_START and CH_CONV as well and ends with an empty workspace. -/
theorem storeDecoded_setConv_again (s : State) (bs : List Byte) (r : Results) (c : Convergence) (w : Workspace) :
    ((((((s.storeDecoded bs r).setConv c).setWork Workspace.none).setWork w).storeDecoded bs r).setConv c).setWork Workspace.none =
      ((s.storeDecoded bs r).setConv c).setWork Workspace.none := by
  simp only [State.storeDecoded, State.setConv, State.setWork, Memory.put_put_self s.out 0 bs bs rfl]

theorem decodedRegs_congr {s t : State} (h : t.hdr = s.hdr) (bits fin : Nat) : decodedRegs t bits fin = decodedRegs s bits fin := by
  simp only [decodedRegs, h]

theorem State.mergedConv_congr {s t : State} (h : t.hdr = s.hdr) (k : Nat) (m : Merger) : t.mergedConv k m = s.mergedConv k m := by
  simp only [State.mergedConv, State.streamLen, State.bitCount, h]

/-- TREE_DECODE again on what it left. -/
theorem treeDecodeRun_repeats (s : State) : (treeDecodeRun s).Repeats (treeDecodeRun (treeDecodeRun s).state) := by
  rcases treeDecodeRun_cases s with ⟨w, fin, hp, hw, run⟩ | ⟨e, hp, hw, run⟩ | ⟨hp, run⟩
  · have again : treeDecodeRun (treeDecodeRun s).state = succeed (treeDecodeRun s).state := by
      rw [run, succeed_state, treeDecodeRun_of_ok (s := s.storeDecoded w.rev.reverse (decodedRegs s w.p fin)) hp hw]
      exact congrArg succeed (storeDecoded_storeDecoded s _ _)
    rw [again, run]
    exact CommandResult.repeats_self _
  · have raised : e.code ≠ .ok := by rcases treeWalk_error_code hw with h | h <;> simp [h]
    rw [run, treeDecodeRun_of_error (s := (failDecode s e).state) hp hw]
    exact failDecode_repeats s raised
  · have again : treeDecodeRun (treeDecodeRun s).state = treeDecodeRun s := by rw [run]; exact run
    rw [again]
    exact CommandResult.repeats_self _

/-- DECODE leaves what it reads. -/
theorem decodeRun_sameDecodeInputs (k : Nat) (s : State) : s.SameDecodeInputs (decodeRun k s).state := by
  obtain ⟨_, _, _, _, _, h⟩ := decodeRun_frame k s
  rw [h]
  constructor <;> rfl

/-- The merge's writes again on what they left, whatever stood in the workspace. -/
theorem mergeResult_repeats (s : State) (k : Nat) {m : Merger} {d b : Nat} (hm : m.Fits d b) (w : Workspace) :
    (mergeResult s k m).releaseWork.Repeats (mergeResult ((mergeResult s k m).releaseWork.state.setWork w) k m).releaseWork := by
  have hdr : ((mergeResult s k m).releaseWork.state.setWork w).hdr = s.hdr := by
    obtain ⟨_, _, _, _, frame⟩ := mergeResult_frame s k m
    simp [CommandResult.releaseWork, frame]
  have conv := State.mergedConv_congr hdr k m
  have regs := decodedRegs_congr hdr m.emitted.bits m.fin
  rcases mergeResult_cases s k m with ⟨e, hr, hlen, h⟩ | ⟨e, hr, hne, h⟩ | ⟨hr, hd, h⟩ | ⟨hr, hd, h⟩ <;> rw [h] at conv regs ⊢
  · simp only [mergeResult, hr, hlen, if_true, conv]
    constructor <;> simp [CommandResult.releaseWork, failDecode, hlen]
  · simp only [mergeResult, hr, hne, if_false]
    rcases hm.raised e hr with ⟨x, rfl⟩ | corrupt
    · exact absurd rfl hne
    · constructor <;> simp [CommandResult.releaseWork, failDecode, corrupt]
  · have again := storeDecoded_setConv_again s m.emitted.rev.reverse (decodedRegs s m.emitted.bits m.fin) (s.mergedConv k m) w
    simp only [mergeResult, hr, hd, if_true, conv, regs]
    exact CommandResult.repeats_of_state rfl again
  · simp only [mergeResult, hr, hd, Bool.false_eq_true, if_false, conv]
    constructor <;> simp [CommandResult.releaseWork, failDecode, lengthEnding]

/-- DECODE again on what it left. -/
theorem decodeRun_repeats (k : Nat) (s : State) : (decodeRun k s).Repeats (decodeRun k (decodeRun k s).state) := by
  have same := decodeRun_sameDecodeInputs k s
  rcases decodeRun_cases k s with ⟨_, run⟩ | ⟨e, hk, hp, hs, run⟩ | ⟨cs, hk, hp, hs, run⟩ | ⟨_, _, run⟩
  · have again : decodeRun k (decodeRun k s).state = decodeRun k s := by rw [run]; exact run
    rw [again]
    exact CommandResult.repeats_self _
  · have raised : e.code ≠ .ok := by simp [speculate_error hs]
    rw [decodeRun_of_speculate_error ((same.badCount k).trans hk) (same.phase.trans hp) ((same.speculate k).trans hs), run]
    exact failDecode_repeats s raised
  · rw [decodeRun_of_speculate_ok ((same.badCount k).trans hk) (same.phase.trans hp) ((same.speculate k).trans hs), same.merge, run]
    exact mergeResult_repeats _ k ((s.setWork { s.work with channels := cs }).merge_fits k) _
  · have again : decodeRun k (decodeRun k s).state = decodeRun k s := by rw [run]; exact run
    rw [again]
    exact CommandResult.repeats_self _

/-- Settles O43: the second run starts where the first one's completion left off, and repeats the first. -/
theorem decodeIsIdempotent : Obligations.DecodeIsIdempotent := by
  intro i s t t' hi ht ht'
  have repeats : (runOf i s).Repeats (runOf i (runOf i s).state) := by
    rcases hi with rfl | ⟨k, rfl⟩
    · exact treeDecodeRun_repeats s
    · exact decodeRun_repeats k s
  obtain rfl := exec_eq_next.1 ht
  obtain rfl := exec_eq_next.1 ht'
  rw [runOf_finish]
  simp only [CommandResult.finishState, State.finish_finish, repeats.ending]
  refine ⟨fun hok => by rw [repeats.state hok], ?_, rfl, repeats.results, repeats.conv⟩
  rw [State.finish_status, State.finish_status, repeats.status]

/-! ## DECODE_PACKET's preparation (45_control.md R137) -/

/-- SYMTAB[0..n−1] as PARSE latches it (41_parse.md R90): the packet's entries. -/
def State.packetSymbols (s : State) (n : Nat) : List SymEntry := (List.range n).map s.packetEntry

theorem State.packetEntry_congr {s t : State} (h : t.pkt = s.pkt) : t.packetEntry = s.packetEntry := by
  funext j
  simp only [State.packetEntry, State.le32, h]

theorem latchedSymtab_take (s : State) {n : Nat} (hn : n ≤ 12) : (latchedSymtab s n).toList.take n = s.packetSymbols n := by
  apply List.ext_getElem
  · simp [State.packetSymbols, hn]
  · intro j h1 h2
    have hj : j < n := by simpa [State.packetSymbols] using h2
    have get := latchedSymtab_getElem s n ⟨j, by omega⟩
    simp only [hj, if_true] at get
    simp [State.packetSymbols, get]

/-- What PARSE latches of a packet that passes is the packet's own table. -/
theorem State.latchHeader_symbols {s : State} {h : PacketHeader} (hn : h.nsym ≤ 12) :
    (s.latchHeader h.registers (latchedSymtab s h.nsym)).symbols = s.packetSymbols h.nsym := by
  have count : h.registers.nsym.toNat = h.nsym := by
    rw [PacketHeader.registers, BitVec.toNat_ofNat, Nat.mod_eq_of_lt (by omega)]
  rw [State.symbols, State.symbolCount, State.latchHeader_hdr, State.latchHeader_symtab, count, latchedSymtab_take s hn]

theorem State.latchHeader_symbolCount {s : State} {h : PacketHeader} {tab : Vector SymEntry 12} (hn : h.nsym ≤ 12) :
    (s.latchHeader h.registers tab).symbolCount = h.nsym := by
  rw [State.symbolCount, State.latchHeader_hdr, PacketHeader.registers, BitVec.toNat_ofNat, Nat.mod_eq_of_lt (by omega)]

/-- The state that DECODE_PACKET's DECODE step starts from: the header and the table latched, the packet's tree in TREE_MEM and its
tables in TABLE_MEM. -/
def State.preparePacket (s : State) (h : PacketHeader) : State :=
  { s with
    hdr := h.registers
    symtab := latchedSymtab s h.nsym
    counts := countsFor h.nsym (maxCodeLenOf (s.packetSymbols h.nsym))
    tree := s.tree.put 0 (treeImage (treeOf (s.packetSymbols h.nsym)))
    table := s.table.put 0 (tableImage (treeEntries (treeOf (s.packetSymbols h.nsym)))
      (countsFor h.nsym (maxCodeLenOf (s.packetSymbols h.nsym))).states.toNat)
    work := Workspace.none
    status := { s.status with phase := .tables } }

theorem packetSymbols_tree_length (s : State) {n : Nat} (hn : n ≤ 12) :
    (treeOf (s.packetSymbols n)).length ≤ Config.maxNodes := by
  have h := treeOf_length (s.packetSymbols n)
  simp only [State.packetSymbols, List.length_map, List.length_range] at h
  simp only [State.packetSymbols, Config.maxNodes]
  omega

/-- The three steps before DECODE. -/
theorem prepare_eq {s : State} {h : PacketHeader} (hn : h.nsym ≤ 12) :
    (genTablesRun (buildTreeRun (s.latchHeader h.registers (latchedSymtab s h.nsym))).state).state = s.preparePacket h := by
  have built := buildTreeRun_of_parsed (s := s.latchHeader h.registers (latchedSymtab s h.nsym)) rfl
  rw [State.latchHeader_symbols hn, State.latchHeader_symbolCount hn] at built
  have nodes := nodes_put_treeImage s.tree (packetSymbols_tree_length s hn)
  have generated (t : State) (ht : t.phaseAtLeast .tree = true) :
      (genTablesRun t).state = t.storeTables (tableImage t.tree.nodes t.counts.states.toNat) := by
    rw [genTablesRun, if_pos ht, succeed_state]
  rw [built, succeed_state, generated _ rfl]
  simp only [State.setWork_tree, State.storeTree_tree, State.latchHeader_tree, nodes]
  rfl

/-- DECODE_PACKET of a packet that passes PARSE is DECODE on the prepared state. -/
theorem decodePacketRun_of_ok {k : Nat} {s : State} {h : PacketHeader} (hk : s.badCount k = false) (hh : readHeader s = .ok h) :
    decodePacketRun k s = decodeRun k (s.preparePacket h) := by
  obtain ⟨_, _, _, hn, _⟩ := readHeader_ok hh
  rcases decodePacketRun_cases k s with ⟨hbad, _⟩ | ⟨e, _, he, _, _⟩ | ⟨h', _, hh', run⟩
  · simp [hk] at hbad
  · simp [hh] at he
  · obtain rfl : h = h' := by simpa [hh] using hh'
    rw [run, prepare_eq hn]

theorem decodePacketRun_of_error {k : Nat} {s : State} {e : Ending} (hk : s.badCount k = false) (he : readHeader s = .error e) :
    decodePacketRun k s = { state := s.dropHeader, ending := e } := by
  rcases decodePacketRun_cases k s with ⟨hbad, _⟩ | ⟨e', _, he', _, run⟩ | ⟨h', _, hh', run⟩
  · simp [hk] at hbad
  · rw [run, Except.error.inj (he.symm.trans he')]
  · simp [he] at hh'

/-! ## No retry helps (60_exceptions.md §4) -/

/-- The preparation reads the packet and the parameters; what it writes over TABLE_MEM it writes again. -/
theorem State.preparePacket_sameDecodeInputs {s t : State} {h : PacketHeader} (frame : (s.preparePacket h).SameDecodeInputs t) :
    (s.preparePacket h).SameDecodeInputs (t.preparePacket h) := by
  have symbols : t.packetSymbols h.nsym = s.packetSymbols h.nsym := by
    rw [State.packetSymbols, State.packetEntry_congr frame.pkt]
    rfl
  refine ⟨frame.params, rfl, frame.convLimit, rfl, ?counts, frame.pkt, ?table⟩
  case counts => simp only [State.preparePacket, symbols]
  case table =>
    have table : t.table = s.table.put 0 _ := frame.table
    simp only [State.preparePacket, symbols, table]
    exact Memory.put_put_self _ _ _ _ rfl

/-- A command that failed fails with the same ending on what it left. -/
theorem runOf_ending_again {i : Instr} {s : State} (h : (runOf i s).ending.code ≠ .ok) :
    (runOf i (runOf i s).state).ending = (runOf i s).ending := by
  rcases runOf_cases i s with ⟨k, _, _, run⟩ | ⟨_, run⟩ | ⟨_, hnr⟩
  · have again : runOf i (runOf i s).state = runOf i s := by rw [run]; exact run
    rw [again]
  · have again : runOf i (runOf i s).state = runOf i s := by rw [run]; exact run
    rw [again]
  · cases i with
    | nop | clear => exact absurd rfl h
    | parse =>
      rcases parseRun_cases s with ⟨p, _, run⟩ | ⟨e, he, run⟩ <;> rw [runOf, run] at h
      · exact absurd rfl h
      · have again : readHeader s.dropHeader = .error e := (readHeader_congr rfl rfl rfl).trans he
        have ending : (parseRun s.dropHeader).ending = e := by rw [parseRun, again]
        simp only [runOf, run, ending]
    | buildTree =>
      rcases buildTreeRun_cases s with ⟨_, run⟩ | ⟨_, run⟩ <;> rw [runOf, run] at h hnr
      · exact absurd rfl h
      · exact absurd (.inr rfl) hnr
    | genTables =>
      rcases genTablesRun_cases s with ⟨_, run⟩ | ⟨_, run⟩ <;> rw [runOf, run] at h hnr
      · exact absurd rfl h
      · exact absurd (.inr rfl) hnr
    | heapOrder =>
      rcases heapOrderRun_cases s with ⟨_, run⟩ | ⟨_, run⟩ <;> rw [runOf, run] at h hnr
      · exact absurd rfl h
      · exact absurd (.inr rfl) hnr
    | treeDecode => exact (treeDecodeRun_repeats s).ending
    | decode k => exact (decodeRun_repeats k s).ending
    | decodePacket k =>
      rcases decodePacketRun_cases k s with ⟨_, run⟩ | ⟨e, hk, he, _, run⟩ | ⟨p, hk, hp, _⟩
      · rw [runOf, run] at hnr
        exact absurd (.inl rfl) hnr
      · have again := decodePacketRun_of_error (s := s.dropHeader) hk ((readHeader_congr rfl rfl rfl).trans he)
        simp only [runOf, run, again]
      · have run := decodePacketRun_of_ok hk hp
        have same := decodeRun_sameDecodeInputs k (s.preparePacket p)
        have again : decodePacketRun k (decodeRun k (s.preparePacket p)).state =
            decodeRun k ((decodeRun k (s.preparePacket p)).state.preparePacket p) :=
          decodePacketRun_of_ok ((same.badCount k).trans hk)
            ((readHeader_congr same.pkt (runOf_keepsHostSide (.decode k) (s.preparePacket p)).pktLen same.params).trans hp)
        simp only [runOf, run, again]
        exact decodeRun_ending_congr (State.preparePacket_sameDecodeInputs same) k

/-- Settles O44: neither the completion nor what a failed run wrote changes the ending. -/
theorem retryFailsAgain : Obligations.RetryFailsAgain := by
  intro i s t t' ht hne ht'
  obtain rfl := exec_eq_next.1 ht
  obtain rfl := exec_eq_next.1 ht'
  have again : (runOf i ((runOf i s).state.finish i.opcode (runOf i s).ending)).ending = (runOf i s).ending := by
    rw [runOf_finish]
    exact runOf_ending_again hne
  rw [State.finish_status, State.finish_errInfo, again]
  exact ⟨rfl, rfl⟩

end Machine
end Sys2Proof
end

section
/-! The host port (10_state.md §3, 20_memory.md): what the register window reads, where the fields of STATUS and CONFIG stand, accesses
while a command runs, byte order, and what a transaction leaves of the results and of the interrupt. -/

namespace Sys2Proof
namespace Machine

/-! ## The register window (10_state.md R11, R38) -/

theorem channelReg_offset {mk : Fin 15 → Reg} {i : Nat} {r : Reg} (h : channelReg mk i = some r) : ∃ j : Fin 15, j.val = i ∧ r = mk j := by
  unfold channelReg at h
  split at h
  · exact ⟨_, rfl, (Option.some.inj h).symm⟩
  · cases h

theorem channelReg_eq_none (mk : Fin 15 → Reg) {i : Nat} (h : 15 ≤ i) : channelReg mk i = none :=
  dif_neg (not_lt.2 h)

/-- A register at an offset stands at that offset. -/
theorem offset_of_regAt {off : Nat} {r : Reg} (h : regAt off = some r) : r.offset = off := by
  unfold regAt at h
  split at h
  case h_24 =>
    split_ifs at h with h4 hconv hstart
    · obtain ⟨j, hj, rfl⟩ := channelReg_offset h
      simp only [Reg.offset]
      omega
    · obtain ⟨j, hj, rfl⟩ := channelReg_offset h
      simp only [Reg.offset]
      omega
  all_goals
    cases h
    rfl

/-- No register stands from 0x0FC on. -/
theorem regAt_of_past {off : Nat} (h : 0x0FC ≤ off) : regAt off = none := by
  unfold regAt
  split
  case h_24 =>
    rw [if_pos (show 0x0C0 ≤ off by omega), channelReg_eq_none _ (by omega)]
    split <;> rfl
  all_goals omega

theorem toNat_ofNat_window {off : Nat} (h : off < 0x1000) : (BitVec.ofNat 18 off).toNat = off := by
  rw [BitVec.toNat_ofNat, Nat.mod_eq_of_lt (by omega)]

/-- A read at a register's offset returns its value and changes nothing but the answer. -/
theorem hostRead_offset {s : State} (hr : s.rst = false) (r : Reg) :
    hostRead 4 (BitVec.ofNat 18 r.offset) s = { s with resp := { err := false, data := s.regValue r } } :=
  hostRead_reg hr (toNat_ofNat_window r.offset_bounds.1)

/-- A reserved offset reads 0 (R38). -/
theorem hostRead_reserved {s : State} (hr : s.rst = false) {off : Nat} (hlt : off < 0x1000) (h4 : off % 4 = 0) (h : regAt off = none) :
    hostRead 4 (BitVec.ofNat 18 off) s = { s with resp := { err := false, data := 0 } } := by
  have ha := toNat_ofNat_window hlt
  rw [hostRead_word hr (ha.symm ▸ hlt) (ha.symm ▸ h4), ha, State.readWindow, h]
  rfl

/-- The five registers that a host write can change. -/
def Reg.writable : Reg → Bool
  | .ctrl | .status | .cmd | .pktLen | .convLimit => true
  | _ => false

theorem writeReg_of_not_writable {r : Reg} (h : r.writable = false) (s : State) (v : Word) : s.writeReg v r = s := by
  cases r with
  | ctrl | status | cmd | pktLen | convLimit => cases h
  | _ => rfl

theorem writable_offset {r : Reg} (h : r.writable = true) : r.offset ∈ [0x020, 0x024, 0x028, 0x02C, 0x030] := by
  cases r with
  | ctrl | status | cmd | pktLen | convLimit => decide
  | _ => cases h

/-- A write at an offset of no writable register is ignored (R38). -/
theorem writeWindow_of_not_writable {off : Nat} (h : off ∉ [0x020, 0x024, 0x028, 0x02C, 0x030]) (s : State) (v : Word) :
    s.writeWindow off v = s := by
  cases hreg : regAt off with
  | none => rw [State.writeWindow, hreg]
  | some r =>
    have hw : r.writable = false := Bool.eq_false_iff.2 fun hw => h (offset_of_regAt hreg ▸ writable_offset hw)
    rw [State.writeWindow, hreg]
    exact writeReg_of_not_writable hw s v

theorem configWord_eq {p : Config.Params} (h : p.Ok) : configWord p = 0x170C0800 ||| BitVec.ofNat 32 p.kMax := by
  obtain ⟨_, _, _, hk⟩ := h
  rw [configWord]
  interval_cases p.kMax <;> rfl

theorem regAt_of_reserved : ∀ off ∈ [0x014, 0x018, 0x01C, 0x038, 0x03C, 0x070, 0x074, 0x078, 0x07C, 0x0BC], regAt off = none := by
  decide

/-- Settles O50: every offset with a register reads that register, every other offset reads 0, and only the five writable ones take a
write. -/
theorem registerWindowReads : Obligations.RegisterWindowReads := by
  refine ⟨fun r => ⟨r.offset_bounds.1, r.offset_bounds.2, regAt_offset r⟩, fun off r h => offset_of_regAt h, fun s hr => ?_⟩
  intro reads
  have at_ (r : Reg) : reads r.offset (s.regValue r) := hostRead_offset hr r
  refine ⟨⟨at_ .id, at_ .version, fun hok => ?config, at_ .pktSize, at_ .outSize⟩,
    ⟨?ctrl, at_ .status, at_ .cmd, at_ .pktLen, at_ .convLimit, at_ .errInfo⟩,
    ⟨at_ .hdrTotalLo, at_ .hdrTotalHi, at_ .hdrNsym, at_ .hdrBits, at_ .hdrEncLen, at_ .hdrDecLen⟩,
    ⟨at_ .nodeCount, at_ .stateCount, at_ .maxCodeLen⟩, ⟨at_ .outCount, at_ .bitsUsed, at_ .finalState⟩,
    fun i => ⟨at_ (.chStart i), at_ (.chConv i)⟩, fun off hlt h4 => ⟨fun hres => ?reserved, fun hnw v => ⟨0, ?ignored⟩⟩⟩
  case config =>
    have h := at_ .config
    rwa [State.regValue, configWord_eq hok] at h
  case ctrl =>
    have h := at_ .ctrl
    rw [State.regValue] at h
    cases hi : s.irqEn <;> rw [hi] at h <;> exact h
  case reserved =>
    refine hostRead_reserved hr hlt h4 ?_
    rcases hres with hmem | hpast
    · exact regAt_of_reserved off hmem
    · exact regAt_of_past hpast
  case ignored =>
    have ha := toNat_ofNat_window hlt
    rw [hostWrite_word hr (ha.symm ▸ hlt) (ha.symm ▸ h4), ha, writeWindow_of_not_writable hnw]
    rfl

/-! ## The fields of STATUS and CONFIG (10_state.md R14, R18) -/

theorem flagAt_eq (bit : Nat) (b : Bool) : flagAt bit b = b.toNat * 2 ^ bit := by
  cases b <;> simp [flagAt]

theorem Phase.toNat_lt (p : Phase) : p.toNat < 4 := by
  cases p <;> decide

theorem ErrCode.toNat_lt (c : ErrCode) : c.toNat < 9 := by
  cases c <;> decide

theorem getLsbD_ofNat_eq {n i : Nat} {b : Bool} (hi : i < 32) (h : n / 2 ^ i % 2 = b.toNat) : (BitVec.ofNat 32 n).getLsbD i = b := by
  rw [BitVec.getLsbD_ofNat, decide_eq_true hi, Bool.true_and, Nat.testBit_eq_decide_div_mod_eq, h]
  cases b <;> rfl

theorem extractLsb'_ofNat_toNat {n : Nat} (hn : n < 2 ^ 32) (i len : Nat) :
    ((BitVec.ofNat 32 n).extractLsb' i len).toNat = n / 2 ^ i % 2 ^ len := by
  rw [BitVec.extractLsb'_toNat, BitVec.toNat_ofNat, Nat.mod_eq_of_lt hn, Nat.shiftRight_eq_div_pow]

theorem extractLsb'_ofNat_eq {n i len v : Nat} (hn : n < 2 ^ 32) (hv : v < 2 ^ len) (h : n / 2 ^ i % 2 ^ len = v) :
    (BitVec.ofNat 32 n).extractLsb' i len = BitVec.ofNat len v := by
  apply BitVec.eq_of_toNat_eq
  rw [extractLsb'_ofNat_toNat hn, BitVec.toNat_ofNat, Nat.mod_eq_of_lt hv, h]

/-- Settles O51: the words are sums with disjoint fields, so each field is a division and a remainder. -/
theorem statusAndConfigFields : Obligations.StatusAndConfigFields := by
  refine ⟨fun s => ?status, fun s hok => ?config⟩
  case status =>
    have h0 := s.busy.toNat_le
    have h1 := s.status.done.toNat_le
    have h2 := s.status.err.toNat_le
    have h3 := s.status.cmdDrop.toNat_le
    have h4 := s.status.accDrop.toNat_le
    have h5 := s.status.busErr.toNat_le
    have hp := s.status.phase.toNat_lt
    have he := s.status.errCode.toNat_lt
    have hl := s.status.lastOp.isLt
    simp only [State.regValue, State.statusWord, flagAt_eq]
    refine ⟨getLsbD_ofNat_eq (by omega) (by omega), getLsbD_ofNat_eq (by omega) (by omega), getLsbD_ofNat_eq (by omega) (by omega),
      getLsbD_ofNat_eq (by omega) (by omega), getLsbD_ofNat_eq (by omega) (by omega), getLsbD_ofNat_eq (by omega) (by omega),
      extractLsb'_ofNat_eq (v := 0) (by omega) (by omega) (by omega), (extractLsb'_ofNat_toNat (by omega) _ _).trans (by omega),
      extractLsb'_ofNat_eq (v := 0) (by omega) (by omega) (by omega), (extractLsb'_ofNat_toNat (by omega) _ _).trans (by omega),
      BitVec.eq_of_toNat_eq ((extractLsb'_ofNat_toNat (by omega) _ _).trans (by omega))⟩
  case config =>
    obtain ⟨_, _, _, hk⟩ := hok
    simp only [State.regValue, configWord, Config.maxEmit, Config.maxSymbols, Config.maxNodes]
    exact ⟨(extractLsb'_ofNat_toNat (by omega) _ _).trans (by omega), extractLsb'_ofNat_eq (v := 0) (by omega) (by omega) (by omega),
      extractLsb'_ofNat_eq (v := 8) (by omega) (by omega) (by omega), extractLsb'_ofNat_eq (v := 0) (by omega) (by omega) (by omega),
      extractLsb'_ofNat_eq (v := 12) (by omega) (by omega) (by omega),
      extractLsb'_ofNat_eq (v := 23) (by omega) (by omega) (by omega)⟩

/-! ## Accesses while a command runs (20_memory.md R55) -/

/-- Without an error response an access from 0x01000 on is a memory access: while a command runs it is dropped. -/
theorem hostRead_busy {s : State} {n : Nat} {a : HostAddr} (hr : s.rst = false) (hb : s.busy = true) (ha : 0x01000 ≤ a.toNat)
    (herr : (hostRead n a s).resp.err = false) : hostRead n a s = s.markAccDrop.answer false 0 := by
  have hbus : busError s.params false n a = false := by simpa [hostRead_resp_err, hr] using herr
  simp [hostRead, hr, hbus, hb, inMemoryWindow_of_mapped ha hbus]

theorem hostWrite_busy {s : State} {n : Nat} {a : HostAddr} {v : Word} (hr : s.rst = false) (hb : s.busy = true)
    (ha : 0x01000 ≤ a.toNat) (herr : (hostWrite n a v s).resp.err = false) :
    hostWrite n a v s = s.markAccDrop.answer false 0 := by
  have hbus : busError s.params true n a = false := by simpa [hostWrite_resp_err, hr] using herr
  simp [hostWrite, hr, hbus, hb, inMemoryWindow_of_mapped ha hbus]

/-- Settles O55: a memory access is dropped by the port, a write to one of the three registers by the register. -/
theorem busyAccessesAreDropped : Obligations.BusyAccessesAreDropped := by
  intro s n a v hr hb
  refine ⟨fun ha herr => hostRead_busy hr hb ha herr, fun ha herr => ⟨0, hostWrite_busy hr hb ha herr⟩, fun hreg => ⟨0, ?command⟩⟩
  case command =>
    rcases hreg with rfl | rfl | rfl
    · exact hostWrite_cmd_busy hr hb v
    · rw [hostWrite_reg (r := .pktLen) hr rfl, State.writeReg, if_pos hb]
      rfl
    · rw [hostWrite_reg (r := .convLimit) hr rfl, State.writeReg, if_pos hb]
      rfl

/-! ## Byte order (20_memory.md R53) -/

/-- An idle read without an error response answers its data. -/
theorem hostRead_idle {s : State} {n : Nat} {a : HostAddr} (hr : s.rst = false) (hi : s.sequencer = .idle)
    (hb : busError s.params false n a = false) : hostRead n a s = s.answer false (s.readData n a) := by
  simp [hostRead, hr, hb, State.busy_of_idle hi]

/-- The data of n bytes is below 256^n. -/
theorem dataWord_lt (bs : List Byte) : (BitVec.ofNat 32 (fromBytes bs)).toNat < 256 ^ bs.length := by
  rw [BitVec.toNat_ofNat]
  exact lt_of_le_of_lt (Nat.mod_le _ _) (fromBytes_lt bs)

/-- Byte k of the data is the k-th byte read. -/
theorem dataWord_byte {bs : List Byte} (h : bs.length ≤ 4) {k : Nat} (hk : k < bs.length) :
    (BitVec.ofNat 32 (fromBytes bs) >>> (8 * k)).setWidth 8 = bs[k] := by
  have hlt : fromBytes bs < 2 ^ 32 := lt_of_lt_of_le (fromBytes_lt bs) (Nat.pow_le_pow_right (by omega) h)
  rw [← fromBytes_getElem bs hk]
  apply BitVec.eq_of_toNat_eq
  rw [BitVec.toNat_setWidth, BitVec.toNat_ushiftRight, BitVec.toNat_ofNat, Nat.mod_eq_of_lt hlt, Nat.shiftRight_eq_div_pow,
    BitVec.toNat_ofNat]

/-- The bytes that an access to a memory window reads: n of them from the address on, 0 past the end of TREE_MEM and TABLE_MEM. -/
def State.windowByte (s : State) (x : Nat) : Byte :=
  if x < 0x02000 then (if x < 0x01000 + 92 then s.tree.byte (x - 0x01000) else 0)
  else if x < 0x20000 then (if x < 0x10000 + 0xB000 then s.table.byte (x - 0x10000) else 0)
  else if x < 0x30000 then s.pkt.byte (x - 0x20000)
  else s.out.byte (x - 0x30000)

/-- A byte of TREE_MEM's or TABLE_MEM's window by its address in place of its offset. -/
theorem paddedByte_eq (m : Memory) {base size x k : Nat} (h : base ≤ x) :
    (if x - base + k < size then m.byte (x - base + k) else 0) = if x + k < base + size then m.byte (x + k - base) else 0 := by
  have cond : (x + k - base < size) = (x + k < base + size) := by
    rw [eq_iff_iff]
    omega
  simp only [← Nat.sub_add_comm h, cond]

/-- The data of a good memory access is its window bytes, little-endian. -/
theorem readData_eq {s : State} {n : Nat} {a : HostAddr} (ha : 0x01000 ≤ a.toNat) (hb : busError s.params false n a = false) :
    s.readData n a = BitVec.ofNat 32 (fromBytes ((List.range n).map (fun k => s.windowByte (a.toNat + k)))) := by
  rcases (busError_eq_false_iff _ _ _ _).1 hb with ⟨hlt, _⟩ | ⟨hn, hal, hwin⟩
  · omega
  · have inside {top : Nat} (htop : top % 4 = 0) (hlt : a.toNat < top) {k : Nat} (hk : k ∈ List.range n) : a.toNat + k < top := by
      rw [List.mem_range] at hk
      rcases hn with rfl | rfl | rfl <;> omega
    rcases windowOf_cases a with ⟨_, e⟩ | ⟨lo, hi, e⟩ | ⟨lo, hi, e⟩ | ⟨lo, hi, e⟩ | ⟨lo, hi, e⟩ | ⟨lo, e⟩ <;>
      simp only [State.readData, e]
    · omega
    · refine congrArg (fun bs => BitVec.ofNat 32 (fromBytes bs)) (List.map_congr_left fun k hk => ?_)
      rw [State.windowByte, if_pos (inside (by decide) hi hk)]
      exact paddedByte_eq s.tree lo
    · omega
    · refine congrArg (fun bs => BitVec.ofNat 32 (fromBytes bs)) (List.map_congr_left fun k hk => ?_)
      rw [State.windowByte, if_neg (show ¬ a.toNat + k < 0x02000 by omega), if_pos (inside (by decide) hi hk)]
      exact paddedByte_eq s.table lo
    · rw [Memory.le, Memory.bytes_eq_map]
      refine congrArg (fun bs => BitVec.ofNat 32 (fromBytes bs)) (List.map_congr_left fun k hk => ?_)
      rw [State.windowByte, if_neg (by omega), if_neg (by omega), if_pos (inside (by decide) hi hk), Nat.sub_add_comm lo]
    · rw [Memory.le, Memory.bytes_eq_map]
      refine congrArg (fun bs => BitVec.ofNat 32 (fromBytes bs)) (List.map_congr_left fun k _ => ?_)
      rw [State.windowByte, if_neg (by omega), if_neg (by omega), if_neg (by omega), Nat.sub_add_comm lo]

theorem goodAccess_le_four {p : Config.Params} {n : Nat} {a : HostAddr} {w : Bool} (h : GoodAccess p n a w) : n ≤ 4 := by
  rcases h with ⟨_, hn, _⟩ | ⟨hn, _⟩ <;> omega

/-- A one-byte read of a window byte. -/
theorem readData_one {s : State} {a : HostAddr} (ha : 0x01000 ≤ a.toNat) (hb : busError s.params false 1 a = false) :
    s.readData 1 a = (s.windowByte a.toNat).setWidth 32 := by
  rw [readData_eq ha hb]
  apply BitVec.eq_of_toNat_eq
  simp [fromBytes]

/-- Byte k of v as the low byte of a word. -/
theorem setWidth_toBytes_getElem (v : Word) (n : Nat) {k : Nat} (h : k < (toBytes n v.toNat).length) :
    ((toBytes n v.toNat)[k]).setWidth 32 = (v >>> (8 * k)) &&& 0xFF := by
  rw [toBytes_getElem, opcode_bits_eq, opField_eq_setWidth]
  congr 1
  apply BitVec.eq_of_toNat_eq
  rw [BitVec.toNat_ofNat, BitVec.toNat_setWidth, BitVec.toNat_ushiftRight, Nat.shiftRight_eq_div_pow, Nat.pow_mul]

/-- A write to a memory window that is neither an error nor dropped, by its window. -/
theorem hostWrite_memory {s : State} {n : Nat} {a : HostAddr} {v : Word} (hr : s.rst = false) (hi : s.sequencer = .idle)
    (ha : 0x20000 ≤ a.toNat) (herr : (hostWrite n a v s).resp.err = false) :
    (n = 1 ∨ n = 2 ∨ n = 4) ∧ a.toNat % n = 0 ∧
    ((a.toNat < 0x30000 ∧ a.toNat - 0x20000 + n ≤ s.params.pktBytes ∧
        hostWrite n a v s = (s.hostPacket (a.toNat - 0x20000) (toBytes n v.toNat)).answer false 0) ∨
      (0x30000 ≤ a.toNat ∧ a.toNat - 0x30000 + n ≤ s.params.outBytes ∧
        hostWrite n a v s = (s.hostOutput (a.toNat - 0x30000) (toBytes n v.toNat)).answer false 0)) := by
  rw [hostWrite_resp_err, hr] at herr
  have hb : busError s.params true n a = false := by simpa using herr
  rw [hostWrite_idle hr hi hb]
  rcases writeData_cases (v := v) hb with ⟨hlt, _⟩ | ⟨lo, hlt, hn, hal, hend, e⟩ | ⟨lo, hn, hal, hend, e⟩
  · omega
  · exact ⟨hn, hal, .inl ⟨hlt, hend, by rw [e]⟩⟩
  · exact ⟨hn, hal, .inr ⟨lo, hend, by rw [e]⟩⟩

/-- Reading back the k-th byte of a write. -/
theorem hostRead_one_written {s t : State} {n k off base : Nat} {a : HostAddr} {v : Word} (hr : t.rst = false)
    (hi : t.sequencer = .idle) (hp : t.params = s.params) (hn : n = 1 ∨ n = 2 ∨ n = 4) (hal : a.toNat % n = 0) (hk : k < n)
    (hbase : a.toNat = base + off) (hlo : 0x20000 ≤ base)
    (hgood : GoodAccess s.params 1 (a + BitVec.ofNat 18 k) false)
    (hbyte : t.windowByte (base + (off + k)) = (toBytes n v.toNat)[k]'(by simpa using hk)) :
    (hostRead 1 (a + BitVec.ofNat 18 k) t).resp = { err := false, data := (v >>> (8 * k)) &&& 0xFF } := by
  have hsum : (a + BitVec.ofNat 18 k).toNat = base + (off + k) := by
    have := a.isLt
    rw [BitVec.toNat_add, BitVec.toNat_ofNat]
    rcases hn with rfl | rfl | rfl <;> omega
  have hb : busError t.params false 1 (a + BitVec.ofNat 18 k) = false := by
    rw [hp]
    exact (busError_eq_false_iff _ _ _ _).2 hgood
  rw [hostRead_idle hr hi hb, State.answer_resp, readData_one (by omega) hb, hsum, hbyte, setWidth_toBytes_getElem]

/-- Settles O56: a good read is its window bytes; a good write stores its bytes in PKT_MEM or OUT_MEM, where a one-byte read finds
them. -/
theorem writeThenReadBytes : Obligations.WriteThenReadBytes := by
  refine ⟨fun s n a hr hi ha herr => ?read, fun s n a v hr hi ha herr => ?write⟩
  case read =>
    rw [hostRead_resp_err, hr] at herr
    have hb : busError s.params false n a = false := by simpa using herr
    have hn := goodAccess_le_four ((busError_eq_false_iff _ _ _ _).1 hb)
    have len : ((List.range n).map (fun k => s.windowByte (a.toNat + k))).length = n := by simp
    refine ⟨_, hostRead_idle hr hi hb, ?_, fun k hk => ?_⟩
    · rw [readData_eq ha hb]
      simpa using dataWord_lt ((List.range n).map (fun k => s.windowByte (a.toNat + k)))
    · rw [readData_eq ha hb, dataWord_byte (len.le.trans hn) (len.symm ▸ hk)]
      simp [State.windowByte]
  case write =>
    obtain ⟨hn, hal, ⟨hlt, hend, e⟩ | ⟨hlo, hend, e⟩⟩ := hostWrite_memory hr hi ha herr
    · simp only [e]
      refine ⟨fun k hk => ?back, fun x => ⟨fun _ hx => ?kept, fun _ => rfl, fun h => ?_, fun h => ?_, rfl, rfl⟩, fun h => ?_⟩
      case back =>
        have hbyte := s.pkt.byte_put_inside (a.toNat - 0x20000) (toBytes n v.toNat) (k := k) (by simpa using hk)
        refine hostRead_one_written (s := s) (off := a.toNat - 0x20000) (base := 0x20000) hr hi rfl hn hal hk (by omega) le_rfl ?_ ?_
        · have := a.isLt
          refine .inr ⟨.inl rfl, Nat.mod_one _, .inr (.inr (.inl ?_))⟩
          rw [BitVec.toNat_add, BitVec.toNat_ofNat]
          rcases hn with rfl | rfl | rfl <;> omega
        · have hin : a.toNat - 0x20000 + k < 0x10000 := by rcases hn with rfl | rfl | rfl <;> omega
          rw [State.windowByte, if_neg (by omega), if_neg (by omega), if_pos (by omega), Nat.add_sub_cancel_left]
          exact hbyte
      case kept => exact s.pkt.byte_put_outside _ _ (by simpa using hx)
      all_goals omega
    · simp only [e]
      refine ⟨fun k hk => ?back, fun x => ⟨fun h => ?_, fun h => ?_, fun _ hx => ?kept, fun _ => rfl, rfl, rfl⟩, fun _ => rfl⟩
      case back =>
        have hbyte := s.out.byte_put_inside (a.toNat - 0x30000) (toBytes n v.toNat) (k := k) (by simpa using hk)
        refine hostRead_one_written (s := s) (off := a.toNat - 0x30000) (base := 0x30000) hr hi rfl hn hal hk (by omega) (by omega) ?_ ?_
        · have := a.isLt
          refine .inr ⟨.inl rfl, Nat.mod_one _, .inr (.inr (.inr ?_))⟩
          rw [BitVec.toNat_add, BitVec.toNat_ofNat]
          rcases hn with rfl | rfl | rfl <;> omega
        · rw [State.windowByte, if_neg (by omega), if_neg (by omega), if_neg (by omega), Nat.add_sub_cancel_left]
          exact hbyte
      case kept => exact s.out.byte_put_outside _ _ (by simpa using hx)
      all_goals omega

/-! ## What a transaction leaves of the results (70_reset_and_hazards.md R165) -/

/-- What a host transaction that is no soft reset leaves alone. -/
structure State.KeepsResults (s t : State) : Prop where
  errCode : t.status.errCode = s.status.errCode
  lastOp : t.status.lastOp = s.status.lastOp
  errInfo : t.errInfo = s.errInfo
  hdr : t.hdr = s.hdr
  counts : t.counts = s.counts
  results : t.results = s.results
  conv : t.conv = s.conv
  symtab : t.symtab = s.symtab
  tree : t.tree = s.tree
  table : t.table = s.table

theorem hostRead_keepsResults (n : Nat) (a : HostAddr) (s : State) :
    s.KeepsResults (hostRead n a s) ∧ (hostRead n a s).out = s.out := by
  rcases hostRead_cases n a s with ⟨_, h⟩ | ⟨_, _, h⟩ | ⟨_, _, _, _, h⟩ | ⟨_, _, _, h⟩ <;> rw [h]
  all_goals exact ⟨⟨rfl, rfl, rfl, rfl, rfl, rfl, rfl, rfl, rfl, rfl⟩, rfl⟩

/-- A register write that is no soft reset. -/
theorem writeReg_keepsResults {s : State} {v : Word} {r : Reg} (h : r ≠ .ctrl ∨ v.getLsbD 1 = false) :
    s.KeepsResults (s.writeReg v r) ∧ (s.writeReg v r).out = s.out := by
  cases r with
  | ctrl =>
    have hv : v.getLsbD 1 = false := by simpa using h
    rw [State.writeReg, hv]
    exact ⟨⟨rfl, rfl, rfl, rfl, rfl, rfl, rfl, rfl, rfl, rfl⟩, rfl⟩
  | cmd | pktLen | convLimit =>
    rw [State.writeReg]
    split <;> exact ⟨⟨rfl, rfl, rfl, rfl, rfl, rfl, rfl, rfl, rfl, rfl⟩, rfl⟩
  | _ => exact ⟨⟨rfl, rfl, rfl, rfl, rfl, rfl, rfl, rfl, rfl, rfl⟩, rfl⟩

theorem writeWindow_keepsResults {s : State} {v : Word} {off : Nat} (h : off ≠ 0x020 ∨ v.getLsbD 1 = false) :
    s.KeepsResults (s.writeWindow off v) ∧ (s.writeWindow off v).out = s.out := by
  unfold State.writeWindow
  split
  case h_1 r hr =>
    refine writeReg_keepsResults (h.imp_left fun hne hc => hne ?_)
    rw [← offset_of_regAt hr, hc]
    rfl
  case h_2 => exact ⟨⟨rfl, rfl, rfl, rfl, rfl, rfl, rfl, rfl, rfl, rfl⟩, rfl⟩

theorem hostWrite_keepsResults {s : State} {n : Nat} {a : HostAddr} {v : Word} (h : a ≠ 0x00020 ∨ v.getLsbD 1 = false) :
    s.KeepsResults (hostWrite n a v s) ∧ (a.toNat < 0x30000 → (hostWrite n a v s).out = s.out) := by
  rcases hostWrite_cases n a v s with ⟨_, e⟩ | ⟨_, _, e⟩ | ⟨_, _, _, _, e⟩ | ⟨_, hb, _, e⟩ <;> rw [e]
  case inr.inr.inr =>
    rcases writeData_cases (v := v) hb with ⟨_, _, _, w⟩ | ⟨_, _, _, _, _, w⟩ | ⟨lo, _, _, _, w⟩ <;> rw [w]
    · have hoff : a.toNat ≠ 0x020 ∨ v.getLsbD 1 = false := h.imp_left fun hne hc => hne (BitVec.eq_of_toNat_eq hc)
      obtain ⟨⟨h1, h2, h3, h4, h5, h6, h7, h8, h9, h10⟩, hout⟩ := writeWindow_keepsResults (s := s) hoff
      exact ⟨⟨h1, h2, h3, h4, h5, h6, h7, h8, h9, h10⟩, fun _ => hout⟩
    · exact ⟨⟨rfl, rfl, rfl, rfl, rfl, rfl, rfl, rfl, rfl, rfl⟩, fun _ => rfl⟩
    · exact ⟨⟨rfl, rfl, rfl, rfl, rfl, rfl, rfl, rfl, rfl, rfl⟩, fun hlt => absurd lo (not_le.2 hlt)⟩
  all_goals exact ⟨⟨rfl, rfl, rfl, rfl, rfl, rfl, rfl, rfl, rfl, rfl⟩, fun _ => rfl⟩

/-- Settles O59: a read only answers or sets a sticky bit; a write has the effect of its window. -/
theorem resultsOutliveTransactions : Obligations.ResultsOutliveTransactions := by
  rintro s t n a v (rfl | ⟨rfl, h⟩)
  · obtain ⟨⟨h1, h2, h3, h4, h5, h6, h7, h8, h9, h10⟩, hout⟩ := hostRead_keepsResults n a s
    exact ⟨h1, h2, h3, h4, h5, h6, h7, h8, h9, h10, fun _ => hout⟩
  · obtain ⟨⟨h1, h2, h3, h4, h5, h6, h7, h8, h9, h10⟩, hout⟩ := hostWrite_keepsResults (s := s) (n := n) h
    refine ⟨h1, h2, h3, h4, h5, h6, h7, h8, h9, h10, ?_⟩
    rintro (hlt | hread)
    · exact hout hlt
    · rw [hread]
      exact (hostRead_keepsResults n a s).2

/-! ## The interrupt (60_exceptions.md R150) -/

theorem softReset_irq (s : State) : s.softReset.irq = false := by
  rw [State.softReset_eq]
  rfl

theorem hostRead_irq (n : Nat) (a : HostAddr) (s : State) : (hostRead n a s).irq = s.irq := by
  rcases hostRead_cases n a s with ⟨_, h⟩ | ⟨_, _, h⟩ | ⟨_, _, _, _, h⟩ | ⟨_, _, _, h⟩ <;> rw [h] <;> rfl

theorem hostWrite_irq {n : Nat} {a : HostAddr} {v : Word} {s : State}
    (h : (hostWrite n a v s).resp.err = true ∨ 0x01000 ≤ a.toNat) : (hostWrite n a v s).irq = s.irq := by
  rcases hostWrite_cases n a v s with ⟨_, e⟩ | ⟨_, _, e⟩ | ⟨_, _, _, _, e⟩ | ⟨_, hb, _, e⟩ <;> rw [e] at h ⊢
  · rfl
  · rfl
  · rfl
  · rcases writeData_cases (v := v) hb with ⟨hlt, _⟩ | ⟨_, _, _, _, _, w⟩ | ⟨_, _, _, _, w⟩
    · rcases h with h | h
      · cases h
      · omega
    · rw [w]; rfl
    · rw [w]; rfl

/-- Settles O60: IRQ is computed from IRQ_EN and DONE, so each clause is what the transaction or the completion does to these two. -/
theorem interruptFollowsDone : Obligations.InterruptFollowsDone := by
  intro s
  refine ⟨rfl, fun i t ht => ?completion, fun hr v hv => ?clear, fun hr hi c => ?accept, fun hr v hv => ⟨0, ?ctrl⟩,
    fun hr v hv => ?srst, fun es he => ⟨_, step_assertRst he, rfl⟩, fun n a => hostRead_irq n a s, fun n a v h => hostWrite_irq h⟩
  case completion =>
    obtain rfl := exec_eq_next.1 ht
    rw [State.irq, State.finish_irqEn, (runOf_keepsHostSide i s).irqEn, State.finish_status, Bool.and_true]
  case clear =>
    rw [hostWrite_reg (r := .status) hr rfl, State.irq]
    simp [State.writeReg, Status.clearBy, hv]
  case accept => exact ((cmdWriteAcceptsOrDrops s c hr).1 hi).2.2
  case ctrl =>
    rw [hostWrite_reg (r := .ctrl) hr rfl, State.writeReg, hv]
    rfl
  case srst =>
    rw [hostWrite_ctrl_srst hr hv]
    exact softReset_irq s

end Machine
end Sys2Proof
end

section
/-! The invariant (Safety.lean): it holds right after reset, every named update of the state keeps it, every command's run keeps it, and so
does every step. -/

namespace Sys2Proof
namespace Machine

/-! ## Reset -/

/-- In phase EMPTY nothing is promised (10_state.md R20). -/
theorem State.phaseAtLeast_of_empty {s : State} (h : s.status.phase = .empty) {p : Phase} (hp : p ≠ .empty) :
    ¬ s.phaseAtLeast p = true := by
  rw [State.phaseAtLeast, h]
  cases p <;> simp [Phase.toNat] at hp ⊢

/-- Settles O46: no memory lists a byte, every count is 0 and PHASE is EMPTY. -/
theorem resetKeepsInvariant : Obligations.ResetKeepsInvariant where
  params := by decide
  pktWf := Memory.unspecified_wf 0 _
  outWf := Memory.unspecified_wf 1 _
  treeWf := Memory.unspecified_wf 2 _
  tableWf := Memory.unspecified_wf 3 _
  pktLen := by decide
  symbolCount := by decide
  decodedLen := by decide
  outCount := by decide
  rstIdle := nofun
  workNone := rfl
  errShown := nofun
  infoZero _ := rfl
  latched h := absurd h (State.phaseAtLeast_of_empty rfl nofun)
  built h := absurd h (State.phaseAtLeast_of_empty rfl nofun)
  tables h := absurd h (State.phaseAtLeast_of_empty rfl nofun)

/-! ## Named updates that keep the invariant -/

/-- The part of the state that PHASE's promises speak of: the packet, what PARSE, BUILD_TREE and GEN_TABLES made of it, and PHASE. -/
def State.packetView (s : State) : State :=
  { State.reset with
    params := s.params
    status := { State.reset.status with phase := s.status.phase }
    pktLen := s.pktLen
    hdr := s.hdr
    counts := s.counts
    symtab := s.symtab
    pkt := s.pkt
    tree := s.tree
    table := s.table }

theorem PacketLatched.of_packetView {s t : State} (h : PacketLatched s) (view : t.packetView = s.packetView) : PacketLatched t :=
  have hv : PacketLatched s.packetView := { h with }
  { (view ▸ hv : PacketLatched t.packetView) with }

theorem TreeBuilt.of_packetView {s t : State} (h : TreeBuilt s) (view : t.packetView = s.packetView) : TreeBuilt t :=
  have hv : TreeBuilt s.packetView := { h with }
  { (view ▸ hv : TreeBuilt t.packetView) with }

theorem TablesBuilt.of_packetView {s t : State} (h : TablesBuilt s) (view : t.packetView = s.packetView) : TablesBuilt t :=
  have hv : TablesBuilt s.packetView := { h with }
  { (view ▸ hv : TablesBuilt t.packetView) with }

namespace State.Inv

variable {s : State} (h : s.Inv)
include h

/-- A change outside the packet's view keeps the invariant where it keeps the other six bounds. -/
theorem of_packetView {t : State} (view : t.packetView = s.packetView) (outWf : t.out.wf s.params.outBytes)
    (outCount : t.results.outCount.toNat ≤ s.params.outBytes) (rstIdle : t.rst = true → t.sequencer = .idle)
    (workNone : t.work = Workspace.none) (errShown : t.status.err = true → t.status.errCode ≠ .ok)
    (infoZero : t.status.errCode = .ok → t.errInfo = 0) : t.Inv := by
  have params : t.params = s.params := show t.packetView.params = s.packetView.params by rw [view]
  have hdr : t.hdr = s.hdr := show t.packetView.hdr = s.packetView.hdr by rw [view]
  have phase (p : Phase) : t.phaseAtLeast p = s.phaseAtLeast p :=
    show t.packetView.phaseAtLeast p = s.packetView.phaseAtLeast p by rw [view]
  have pkt : t.pkt = s.pkt := show t.packetView.pkt = s.packetView.pkt by rw [view]
  have tree : t.tree = s.tree := show t.packetView.tree = s.packetView.tree by rw [view]
  have table : t.table = s.table := show t.packetView.table = s.packetView.table by rw [view]
  have pktLen : t.pktLen = s.pktLen := show t.packetView.pktLen = s.packetView.pktLen by rw [view]
  exact
    { params := params ▸ h.params
      pktWf := by rw [pkt, params]; exact h.pktWf
      outWf := by rw [params]; exact outWf
      treeWf := by rw [tree]; exact h.treeWf
      tableWf := by rw [table]; exact h.tableWf
      pktLen := by rw [pktLen, params]; exact h.pktLen
      symbolCount := by rw [State.symbolCount, hdr]; exact h.symbolCount
      decodedLen := by rw [State.decodedLen, hdr, params]; exact h.decodedLen
      outCount := by rw [params]; exact outCount
      rstIdle := rstIdle
      workNone := workNone
      errShown := errShown
      infoZero := infoZero
      latched := fun hp => (h.latched (phase _ ▸ hp)).of_packetView view
      built := fun hp => (h.built (phase _ ▸ hp)).of_packetView view
      tables := fun hp => (h.tables (phase _ ▸ hp)).of_packetView view }

theorem withEvents (es : List Event) : (s.withEvents es).Inv :=
  h.of_packetView rfl h.outWf h.outCount h.rstIdle h.workNone h.errShown h.infoZero

theorem answer (e : Bool) (d : Word) : (s.answer e d).Inv :=
  h.of_packetView rfl h.outWf h.outCount h.rstIdle h.workNone h.errShown h.infoZero

theorem setRst {b : Bool} (hb : b = true → s.sequencer = .idle) : (s.setRst b).Inv :=
  h.of_packetView rfl h.outWf h.outCount hb h.workNone h.errShown h.infoZero

theorem setIrqEn (b : Bool) : (s.setIrqEn b).Inv :=
  h.of_packetView rfl h.outWf h.outCount h.rstIdle h.workNone h.errShown h.infoZero

theorem setConvLimit (v : Word) : (s.setConvLimit v).Inv :=
  h.of_packetView rfl h.outWf h.outCount h.rstIdle h.workNone h.errShown h.infoZero

theorem markCmdDrop : s.markCmdDrop.Inv := h.of_packetView rfl h.outWf h.outCount h.rstIdle h.workNone h.errShown h.infoZero

theorem markAccDrop : s.markAccDrop.Inv := h.of_packetView rfl h.outWf h.outCount h.rstIdle h.workNone h.errShown h.infoZero

theorem markBusErr : s.markBusErr.Inv := h.of_packetView rfl h.outWf h.outCount h.rstIdle h.workNone h.errShown h.infoZero

theorem clearStatus (v : Word) : (s.setStatus (s.status.clearBy v)).Inv :=
  have shown : (s.status.clearBy v).err = true → s.status.errCode ≠ .ok := fun he =>
    h.errShown (by simp only [Status.clearBy, Bool.and_eq_true] at he; exact he.1)
  h.of_packetView rfl h.outWf h.outCount h.rstIdle h.workNone shown h.infoZero

theorem accept (hr : s.rst = false) (c : Word) : (s.accept c).Inv :=
  have noReset : s.rst = true → (s.accept c).sequencer = .idle := fun hr' => absurd hr' (by simp [hr])
  h.of_packetView rfl h.outWf h.outCount noReset h.workNone nofun h.infoZero

theorem setPktLen (v : Word) : (s.setPktLen v).Inv :=
  { h with
    pktLen := by
      rw [State.setPktLen, BitVec.toNat_ofNat]
      exact (Nat.mod_le _ _).trans (Nat.min_le_right _ _)
    latched := fun h' => absurd h' (State.phaseAtLeast_of_empty rfl nofun)
    built := fun h' => absurd h' (State.phaseAtLeast_of_empty rfl nofun)
    tables := fun h' => absurd h' (State.phaseAtLeast_of_empty rfl nofun) }

theorem hostPacket {a : Nat} {bs : List Byte} (hend : a + bs.length ≤ s.params.pktBytes) : (s.hostPacket a bs).Inv :=
  { h with
    pktWf := Memory.put_wf h.pktWf hend
    latched := fun h' => absurd h' (State.phaseAtLeast_of_empty rfl nofun)
    built := fun h' => absurd h' (State.phaseAtLeast_of_empty rfl nofun)
    tables := fun h' => absurd h' (State.phaseAtLeast_of_empty rfl nofun) }

theorem hostOutput {a : Nat} {bs : List Byte} (hend : a + bs.length ≤ s.params.outBytes) : (s.hostOutput a bs).Inv :=
  h.of_packetView rfl (Memory.put_wf h.outWf hend) h.outCount h.rstIdle h.workNone h.errShown h.infoZero

/-- A completion writes ERR and ERR_INFO together (60_exceptions.md R140). -/
theorem finish {op : Byte} {e : Ending} (he : e.code = .ok → e.info = 0) : (s.finish op e).Inv :=
  h.of_packetView rfl h.outWf h.outCount (fun _ => rfl) h.workNone of_decide_eq_true he

/-- The reset values with memories in canonical form (70_reset_and_hazards.md R157, R158). -/
theorem resetWith {t : State} (hp : t.params = s.params) (pkt : t.pkt.wf s.params.pktBytes) (out : t.out.wf s.params.outBytes)
    (tree : t.tree.wf Config.treeBytes) (table : t.table.wf Config.tableBytes) : t.resetRegisters.Inv where
  params := hp.symm ▸ h.params
  pktWf := hp.symm ▸ pkt
  outWf := hp.symm ▸ out
  treeWf := tree
  tableWf := table
  pktLen := Nat.zero_le _
  symbolCount := Nat.zero_le _
  decodedLen := Nat.zero_le _
  outCount := Nat.zero_le _
  rstIdle _ := rfl
  workNone := rfl
  errShown := nofun
  infoZero _ := rfl
  latched h' := absurd h' (State.phaseAtLeast_of_empty rfl nofun)
  built h' := absurd h' (State.phaseAtLeast_of_empty rfl nofun)
  tables h' := absurd h' (State.phaseAtLeast_of_empty rfl nofun)

theorem hardwareReset : s.hardwareReset.Inv :=
  (h.resetWith (t := s.loseMemories) rfl (Memory.unspecified_wf _ _) (Memory.unspecified_wf _ _) (Memory.unspecified_wf _ _)
    (Memory.unspecified_wf _ _)).setRst fun _ => rfl

theorem symbolCount_le : s.symbolCount ≤ 12 := h.symbolCount

/-- The region of OUT_MEM that an abort leaves unspecified lies within OUT_MEM (70_reset_and_hazards.md R159). -/
theorem scrambleOut_wf {n : Nat} (hn : n ≤ s.params.outBytes) : (s.scrambleOut n).out.wf s.params.outBytes :=
  Memory.put_wf h.outWf (by rw [freeBytes_length]; omega)

theorem abortRunning_wf (c : Word) : (abortRunning c s).out.wf s.params.outBytes ∧ (abortRunning c s).tree.wf Config.treeBytes ∧
    (abortRunning c s).table.wf Config.tableBytes := by
  have hout := h.params.2.1.1
  have hn := h.symbolCount_le
  cases hd : decodeWord c with
  | error e =>
    rw [abortRunning_of_error hd]
    exact ⟨h.outWf, h.treeWf, h.tableWf⟩
  | ok i =>
    cases i with
    | nop | parse | clear =>
      rw [abortRunning_of_noRegion hd (by simp)]
      exact ⟨h.outWf, h.treeWf, h.tableWf⟩
    | buildTree =>
      rw [abortRunning_of_buildTree hd]
      exact ⟨h.outWf, Memory.unspecified_wf _ _, h.tableWf⟩
    | genTables =>
      rw [abortRunning_of_genTables hd]
      exact ⟨h.outWf, h.treeWf, Memory.unspecified_wf _ _⟩
    | decode k =>
      rw [abortRunning_of_decoder hd (.inr ⟨k, rfl⟩)]
      exact ⟨h.scrambleOut_wf h.decodedLen, h.treeWf, h.tableWf⟩
    | treeDecode =>
      rw [abortRunning_of_decoder hd (.inl rfl)]
      exact ⟨h.scrambleOut_wf h.decodedLen, h.treeWf, h.tableWf⟩
    | heapOrder =>
      rw [abortRunning_of_heapOrder hd]
      exact ⟨h.scrambleOut_wf (by omega), h.treeWf, h.tableWf⟩
    | decodePacket k =>
      rcases abortRunning_of_decodePacket (s := s) hd with ⟨p, hp, ht⟩ | ⟨e, _, ht⟩ <;> rw [ht]
      · obtain ⟨_, _, _, hsym, _, _, _, _, hdec⟩ := readHeader_ok hp
        refine ⟨Memory.put_wf h.outWf ?_, Memory.unspecified_wf _ _, Memory.unspecified_wf _ _⟩
        rw [freeBytes_length]
        omega
      · exact ⟨h.outWf, Memory.unspecified_wf _ _, Memory.unspecified_wf _ _⟩

theorem abort_wf : s.abort.out.wf s.params.outBytes ∧ s.abort.tree.wf Config.treeBytes ∧ s.abort.table.wf Config.tableBytes := by
  unfold State.abort
  cases s.fetched with
  | none => exact ⟨h.outWf, h.treeWf, h.tableWf⟩
  | some c => exact h.abortRunning_wf c

theorem softReset : s.softReset.Inv := by
  obtain ⟨out, tree, table⟩ := h.abort_wf
  have frame := s.abort_frame
  exact h.resetWith (by rw [frame]) (by rw [frame]; exact h.pktWf) out tree table

/-! ## Transactions -/

theorem hostRead (n : Nat) (a : HostAddr) : (hostRead n a s).Inv := by
  rcases hostRead_cases n a s with ⟨_, e⟩ | ⟨_, _, e⟩ | ⟨_, _, _, _, e⟩ | ⟨_, _, _, e⟩ <;> rw [e]
  · exact h.answer _ _
  · exact h.markBusErr.answer _ _
  · exact h.markAccDrop.answer _ _
  · exact h.answer _ _

theorem writeReg (hr : s.rst = false) (v : Word) (r : Reg) : (s.writeReg v r).Inv := by
  cases r with
  | ctrl =>
    rw [State.writeReg]
    split
    · exact h.softReset
    · exact h.setIrqEn _
  | status => exact h.clearStatus v
  | cmd =>
    rw [State.writeReg]
    split
    · exact h.markCmdDrop
    · exact h.accept hr v
  | pktLen =>
    rw [State.writeReg]
    split
    · exact h.markCmdDrop
    · exact h.setPktLen v
  | convLimit =>
    rw [State.writeReg]
    split
    · exact h.markCmdDrop
    · exact h.setConvLimit v
  | _ => exact h

theorem writeWindow (hr : s.rst = false) (off : Nat) (v : Word) : (s.writeWindow off v).Inv := by
  unfold State.writeWindow
  split
  · exact h.writeReg hr v _
  · exact h

theorem hostWrite (n : Nat) (a : HostAddr) (v : Word) : (hostWrite n a v s).Inv := by
  rcases hostWrite_cases n a v s with ⟨_, e⟩ | ⟨_, _, e⟩ | ⟨_, _, _, _, e⟩ | ⟨hr, hb, _, e⟩ <;> rw [e]
  · exact h.answer _ _
  · exact h.markBusErr.answer _ _
  · exact h.markAccDrop.answer _ _
  · rcases writeData_cases (v := v) hb with ⟨_, _, _, w⟩ | ⟨_, _, _, _, hend, w⟩ | ⟨_, _, _, hend, w⟩ <;> rw [w]
    · exact (h.writeWindow hr _ v).answer _ _
    · exact (h.hostPacket (by rwa [toBytes_length])).answer _ _
    · exact (h.hostOutput (by rwa [toBytes_length])).answer _ _

/-! ## What the invariant says of a phase -/

theorem two_le_symbolCount (hp : s.phaseAtLeast .parsed = true) : 2 ≤ s.symbolCount :=
  (readHeader_ok (h.latched hp).accepted).2.2.1

theorem symbols_length : s.symbols.length = s.symbolCount := by
  have := h.symbolCount_le
  simp only [State.symbols, List.length_take, Vector.length_toList]
  omega

/-- TREE_MEM holds the tree of the symbol table (42_tree.md R99). -/
theorem tree_nodes (hp : s.phaseAtLeast .tree = true) : s.tree.nodes = treeEntries (treeOf s.symbols) := by
  rw [Memory.nodes, (h.built hp).image, treeImage, nodesOf_flatMap_toBytes]

theorem counts_states (hp : s.phaseAtLeast .tree = true) : s.counts.states.toNat = s.symbolCount - 1 := by
  have := h.symbolCount_le
  rw [(h.built hp).counts, countsFor, BitVec.toNat_ofNat, Nat.mod_eq_of_lt (by omega)]

theorem counts_nodes (hp : s.phaseAtLeast .tree = true) : s.counts.nodes.toNat = 2 * s.symbolCount - 1 := by
  have := h.symbolCount_le
  rw [(h.built hp).counts, countsFor, BitVec.toNat_ofNat, Nat.mod_eq_of_lt (by omega)]

end State.Inv

/-! ## Runs that keep the invariant -/

theorem State.phaseAtLeast_mono {s : State} {p q : Phase} (hpq : p.toNat ≤ q.toNat) (h : s.phaseAtLeast q = true) :
    s.phaseAtLeast p = true :=
  decide_eq_true (hpq.trans (of_decide_eq_true h))

/-- The header registers hold the numbers of a header whose counts are small (10_state.md R26, R29). -/
theorem registers_bounds {h : PacketHeader} {n d : Nat} (hn : h.nsym ≤ n) (hd : h.decLen ≤ d) :
    h.registers.nsym.toNat ≤ n ∧ h.registers.decLen.toNat ≤ d := by
  simp only [PacketHeader.registers, BitVec.toNat_ofNat]
  exact ⟨(Nat.mod_le _ _).trans hn, (Nat.mod_le _ _).trans hd⟩

namespace State.Inv

variable {s : State} (h : s.Inv)
include h

theorem latchHeader {p : PacketHeader} (hp : readHeader s = .ok p) :
    (s.latchHeader p.registers (latchedSymtab s p.nsym)).Inv := by
  obtain ⟨hat, _, _, hn, _, _, _, _, hd⟩ := readHeader_ok hp
  have bounds := registers_bounds hn hd
  have count : (s.latchHeader p.registers (latchedSymtab s p.nsym)).symbolCount = p.nsym := State.latchHeader_symbolCount hn
  have hdr : p = s.headerAt p.nsym := by rw [hat]; rfl
  exact
    { h with
      symbolCount := bounds.1
      decodedLen := bounds.2
      latched := fun _ =>
        { accepted := by
            rw [count]
            exact (readHeader_congr rfl rfl rfl).trans (hp.trans (congrArg Except.ok hdr))
          header := by
            rw [count]
            exact congrArg PacketHeader.registers hdr
          entries := fun j hj => by
            rw [count] at hj
            exact (latchedSymtab_getElem s p.nsym j).trans (if_pos hj) }
      built := fun h' => absurd h' (by simp [State.phaseAtLeast, Phase.toNat])
      tables := fun h' => absurd h' (by simp [State.phaseAtLeast, Phase.toNat]) }

theorem dropHeader : s.dropHeader.Inv :=
  { h with
    symbolCount := Nat.zero_le _
    decodedLen := Nat.zero_le _
    latched := fun h' => absurd h' (State.phaseAtLeast_of_empty rfl nofun)
    built := fun h' => absurd h' (State.phaseAtLeast_of_empty rfl nofun)
    tables := fun h' => absurd h' (State.phaseAtLeast_of_empty rfl nofun) }

theorem clearDerived : s.clearDerived.Inv :=
  { h with
    symbolCount := Nat.zero_le _
    decodedLen := Nat.zero_le _
    outCount := Nat.zero_le _
    latched := fun h' => absurd h' (State.phaseAtLeast_of_empty rfl nofun)
    built := fun h' => absurd h' (State.phaseAtLeast_of_empty rfl nofun)
    tables := fun h' => absurd h' (State.phaseAtLeast_of_empty rfl nofun) }

theorem parseRun : (parseRun s).state.Inv := by
  rcases parseRun_cases s with ⟨p, hp, run⟩ | ⟨e, _, run⟩ <;> rw [run]
  · exact h.latchHeader hp
  · exact h.dropHeader

theorem buildTreeRun : (buildTreeRun s).state.Inv := by
  rcases buildTreeRun_cases s with ⟨hp, run⟩ | ⟨_, run⟩ <;> rw [run]
  · have len := treeImage_length (treeOf_symbols_length s)
    have image := s.tree.bytes_put_self 0 (treeImage (treeOf s.symbols))
    rw [len] at image
    exact
      { h with
        treeWf := Memory.put_wf h.treeWf (by rw [len, Nat.zero_add])
        workNone := rfl
        latched := fun _ => { h.latched hp with }
        built := fun _ => { image := image, counts := rfl }
        tables := fun h' => absurd h' (by simp [State.phaseAtLeast, Phase.toNat]) }
  · exact h

theorem genTablesRun : (genTablesRun s).state.Inv := by
  rcases genTablesRun_cases s with ⟨hp, run⟩ | ⟨_, run⟩ <;> rw [run]
  · have len := tableImage_length s.tree.nodes s.counts.states.toNat
    have image := s.table.bytes_put_self 0 (tableImage s.tree.nodes s.counts.states.toNat)
    rw [len, h.tree_nodes hp, h.counts_states hp] at image
    rw [h.tree_nodes hp, h.counts_states hp] at len
    rw [h.tree_nodes hp, h.counts_states hp]
    exact
      { h with
        tableWf := Memory.put_wf h.tableWf (by rw [len, Nat.zero_add])
        latched := fun _ => { h.latched (State.phaseAtLeast_mono (by decide) hp) with }
        built := fun _ => { h.built hp with }
        tables := fun _ => { image := image } }
  · exact h

theorem heapOrderRun : (heapOrderRun s).state.Inv := by
  have hout := h.params.2.1.1
  have hn := h.symbolCount_le
  rcases heapOrderRun_cases s with ⟨_, run⟩ | ⟨_, run⟩ <;> rw [run]
  · have len := orderedSymbols_symbols_length s (seedHeap s.symbols)
    exact h.of_packetView rfl (Memory.put_wf h.outWf (by omega)) (hn.trans hout) h.rstIdle rfl h.errShown h.infoZero
  · exact h

end State.Inv

/-- What a decode writes: at most D bytes of OUT_MEM from 0 on, D or 0 in OUT_COUNT, and nothing that the invariant bounds beside them. -/
structure State.DecodesTo (s t : State) : Prop where
  frame : ∃ out results conv work draws, t = { s with out := out, results := results, conv := conv, work := work, draws := draws }
  out : t.out = s.out ∨ ∃ bs : List Byte, bs.length ≤ s.decodedLen ∧ t.out = s.out.put 0 bs
  count : t.results = s.results ∨ t.results.outCount = s.hdr.decLen ∨ t.results.outCount = 0
  work : s.work = Workspace.none → t.work = Workspace.none

theorem State.decodesTo_refl (s : State) : s.DecodesTo s :=
  ⟨⟨s.out, s.results, s.conv, s.work, s.draws, rfl⟩, .inl rfl, .inl rfl, id⟩

theorem failDecode_decodesTo (s : State) (e : Ending) : s.DecodesTo (failDecode s e).state :=
  ⟨⟨_, _, s.conv, s.work, _, rfl⟩, .inr ⟨_, (freeBytes_length _ _).le, rfl⟩, .inr (.inr rfl), id⟩

theorem treeDecodeRun_decodesTo (s : State) : s.DecodesTo (treeDecodeRun s).state := by
  rcases treeDecodeRun_cases s with ⟨w, fin, _, hw, run⟩ | ⟨e, _, _, run⟩ | ⟨_, run⟩ <;> rw [run]
  · refine ⟨⟨_, _, s.conv, s.work, s.draws, rfl⟩, .inr ⟨_, ?_, rfl⟩, .inr (.inl rfl), id⟩
    rw [List.length_reverse, (treeWalk_ok hw).1]
  · exact failDecode_decodesTo s e
  · exact s.decodesTo_refl

/-- The merge's writes, with the workspace released (44_decode.md R125, 10_state.md R43). -/
theorem mergeResult_decodesTo {s : State} (k : Nat) {m : Merger} (hm : m.Fits s.decodedLen s.bitCount) (w : Workspace) :
    s.DecodesTo (mergeResult (s.setWork w) k m).releaseWork.state := by
  obtain ⟨out, results, conv, draws, frame⟩ := mergeResult_frame (s.setWork w) k m
  refine ⟨⟨out, results, conv, Workspace.none, draws, by rw [CommandResult.releaseWork, frame]; rfl⟩, ?_, ?_, fun _ => rfl⟩ <;>
    rcases mergeResult_cases (s.setWork w) k m with ⟨e, _, _, h⟩ | ⟨e, _, _, h⟩ | ⟨_, _, h⟩ | ⟨_, _, h⟩ <;> rw [h]
  · exact .inr ⟨_, (freeBytes_length _ _).le, rfl⟩
  · exact .inr ⟨_, (freeBytes_length _ _).le, rfl⟩
  · refine .inr ⟨_, ?_, rfl⟩
    rw [List.length_reverse, hm.emitted.length]
    exact hm.emitted.count
  · exact .inr ⟨_, (freeBytes_length _ _).le, rfl⟩
  · exact .inr (.inr rfl)
  · exact .inr (.inr rfl)
  · exact .inr (.inl rfl)
  · exact .inr (.inr rfl)

theorem decodeRun_decodesTo (k : Nat) (s : State) : s.DecodesTo (decodeRun k s).state := by
  rcases decodeRun_cases k s with ⟨_, run⟩ | ⟨e, _, _, _, run⟩ | ⟨cs, _, _, _, run⟩ | ⟨_, _, run⟩ <;> rw [run]
  · exact s.decodesTo_refl
  · exact failDecode_decodesTo s e
  · exact mergeResult_decodesTo (s := s) k ((s.setWork { s.work with channels := cs }).merge_fits k) _
  · exact s.decodesTo_refl

namespace State.Inv

variable {s : State} (h : s.Inv)
include h

theorem decodesTo {t : State} (ht : s.DecodesTo t) : t.Inv := by
  obtain ⟨⟨out, results, conv, work, draws, rfl⟩, hout, hcount, hwork⟩ := ht
  have hD := h.decodedLen
  refine h.of_packetView rfl ?outWf ?outCount h.rstIdle (hwork h.workNone) h.errShown h.infoZero
  case outWf =>
    rcases hout with hout | ⟨bs, hlen, hout⟩ <;> rw [hout]
    · exact h.outWf
    · exact Memory.put_wf h.outWf (by omega)
  case outCount =>
    rcases hcount with hcount | hcount | hcount <;> rw [hcount]
    · exact h.outCount
    · exact hD
    · exact Nat.zero_le _

theorem decodePacketRun (k : Nat) : (decodePacketRun k s).state.Inv := by
  rcases decodePacketRun_cases k s with ⟨_, run⟩ | ⟨e, _, _, _, run⟩ | ⟨p, _, hp, run⟩ <;> rw [run]
  · exact h
  · exact h.dropHeader
  · exact ((h.latchHeader hp).buildTreeRun.genTablesRun).decodesTo (decodeRun_decodesTo k _)

/-- Every command's run keeps the invariant. -/
theorem runOf (i : Instr) : (runOf i s).state.Inv := by
  cases i with
  | nop => exact h
  | clear => exact h.clearDerived
  | parse => exact h.parseRun
  | buildTree => exact h.buildTreeRun
  | genTables => exact h.genTablesRun
  | decode k => exact h.decodesTo (decodeRun_decodesTo k s)
  | treeDecode => exact h.decodesTo (treeDecodeRun_decodesTo s)
  | heapOrder => exact h.heapOrderRun
  | decodePacket k => exact h.decodePacketRun k

theorem exec {i : Instr} {t : State} (ht : exec i s = .next t) : t.Inv := by
  obtain rfl := exec_eq_next.1 ht
  exact (h.runOf i).finish fun hok => by rw [runOf_ending_of_ok hok, Ending.success_info]

theorem sequencerStep {t : State} (ht : sequencerStep s = .next t) : t.Inv := by
  rcases sequencerStep_cases s with ⟨_, e⟩ | ⟨c, i, _, _, e⟩ | ⟨c, err, _, _, e⟩ <;> rw [e] at ht
  · cases ht
    exact h
  · exact h.exec ht
  · cases ht
    exact h.finish nofun

end State.Inv

/-- Settles O47: each of the six kinds of step is a named update or a completed run, and each of those keeps the invariant. -/
theorem stepKeepsInvariant : Obligations.StepKeepsInvariant := by
  intro s t h ht
  rcases step_cases s with ⟨_, e⟩ | ⟨es, _, e⟩ | ⟨n, a, es, _, e⟩ | ⟨n, a, v, es, _, e⟩ | ⟨es, _, e⟩ | ⟨es, _, e⟩ <;> rw [e] at ht
  · exact h.sequencerStep ht
  · exact (h.withEvents es).sequencerStep ht
  · cases ht
    exact (h.withEvents es).hostRead n a
  · cases ht
    exact (h.withEvents es).hostWrite n a v
  · cases ht
    exact (h.withEvents es).hardwareReset
  · cases ht
    exact (h.withEvents es).setRst nofun

end Machine
end Sys2Proof
end

section
/-! The heap (42_tree.md §1): a push and a pop permute the entries, keep the order and find the smallest entry; so the pop order sorts the
symbols (§3). -/

namespace Sys2Proof
namespace Machine

/-! ## Swaps -/

theorem heapAt_eq_getElem {h : List HeapEntry} {i : Nat} (hi : i < h.length) : heapAt h i = h[i] :=
  List.getD_eq_getElem _ _ hi

theorem heapSwap_perm {h : List HeapEntry} {i j : Nat} (hi : i < h.length) (hj : j < h.length) : (heapSwap h i j).Perm h := by
  rw [heapSwap, heapAt_eq_getElem hi, heapAt_eq_getElem hj]
  exact List.set_set_perm hi hj

/-- What stands at x after a swap. -/
theorem heapAt_heapSwap {h : List HeapEntry} {i j : Nat} (hi : i < h.length) (hj : j < h.length) (x : Nat) :
    heapAt (heapSwap h i j) x = if x = j then heapAt h i else if x = i then heapAt h j else heapAt h x := by
  simp only [heapSwap, heapAt, List.getD_eq_getElem?_getD, List.getElem?_set, List.length_set]
  by_cases hxj : x = j
  · simp [hxj, hj]
  · by_cases hxi : x = i
    · subst hxi
      simp [hxj, hi, hj, Ne.symm hxj]
    · simp [hxj, hxi, Ne.symm hxj, Ne.symm hxi]

/-! ## Sift-up (42_tree.md R94) -/

/-- The frequency at a heap position, as a number. -/
def key (h : List HeapEntry) (i : Nat) : Nat := (heapAt h i).f.toNat

theorem key_heapSwap {h : List HeapEntry} {i j : Nat} (hi : i < h.length) (hj : j < h.length) (x : Nat) :
    key (heapSwap h i j) x = if x = j then key h i else if x = i then key h j else key h x := by
  simp only [key, heapAt_heapSwap hi hj]
  split
  · rfl
  · split <;> rfl

/-- In order but for position i, which may be smaller than its parent; its children respect its parent. -/
structure OrderedButUp (h : List HeapEntry) (i : Nat) : Prop where
  others : ∀ x, 0 < x → x < h.length → x ≠ i → key h ((x - 1) / 2) ≤ key h x
  below : 0 < i → ∀ x, 0 < x → x < h.length → (x - 1) / 2 = i → key h ((i - 1) / 2) ≤ key h x

theorem siftUp_perm (fuel : Nat) {i : Nat} {h : List HeapEntry} (hi : i < h.length) : (siftUp fuel i h).Perm h := by
  induction fuel generalizing i h with
  | zero => exact List.Perm.refl _
  | succ fuel ih =>
    simp only [siftUp]
    split
    · have hp : (i - 1) / 2 < h.length := by omega
      exact (ih (by rwa [heapSwap_length])).trans (heapSwap_perm hi hp)
    · exact List.Perm.refl _

/-- One level: after the swap the parent's position is the only one that may be out of order. -/
theorem OrderedButUp.swap {h : List HeapEntry} {i : Nat} (ho : OrderedButUp h i) (h0 : 0 < i) (hi : i < h.length)
    (hlt : key h i < key h ((i - 1) / 2)) : OrderedButUp (heapSwap h i ((i - 1) / 2)) ((i - 1) / 2) := by
  have hp : (i - 1) / 2 < h.length := by omega
  constructor
  · intro x hx hxl hne
    rw [heapSwap_length] at hxl
    have hx' := ho.others x hx hxl
    have hbelow := ho.below h0 x hx hxl
    simp only [key_heapSwap hi hp, if_neg hne]
    by_cases hxi : x = i
    · rw [if_pos hxi, hxi, if_pos rfl]
      exact hlt.le
    · rw [if_neg hxi]
      by_cases hparent : (x - 1) / 2 = (i - 1) / 2
      · rw [if_pos hparent]
        exact hlt.le.trans (hparent ▸ hx' hxi)
      · rw [if_neg hparent]
        by_cases hchild : (x - 1) / 2 = i
        · rw [if_pos hchild]
          exact hbelow hchild
        · rw [if_neg hchild]
          exact hx' hxi
  · intro hp0 x hx hxl hchild
    rw [heapSwap_length] at hxl
    have grand := ho.others ((i - 1) / 2) hp0 hp (by omega)
    simp only [key_heapSwap hi hp]
    rw [if_neg (show ((i - 1) / 2 - 1) / 2 ≠ (i - 1) / 2 by omega), if_neg (show ((i - 1) / 2 - 1) / 2 ≠ i by omega),
      if_neg (show x ≠ (i - 1) / 2 by omega)]
    by_cases hxi : x = i
    · rw [if_pos hxi]
      exact grand
    · rw [if_neg hxi]
      exact grand.trans (hchild ▸ ho.others x hx hxl hxi)

theorem siftUp_ordered {fuel i : Nat} {h : List HeapEntry} (hf : i ≤ fuel) (hi : i < h.length) (ho : OrderedButUp h i) :
    HeapOrdered (siftUp fuel i h) := by
  induction fuel generalizing i h with
  | zero => exact fun x hx hxl => ho.others x hx hxl (by omega)
  | succ fuel ih =>
    simp only [siftUp]
    split
    · rename_i hcond
      exact ih (by omega) (by rw [heapSwap_length]; omega) (ho.swap hcond.1 hi (BitVec.lt_def.1 hcond.2))
    · rename_i hcond
      intro x hx hxl
      by_cases hxi : x = i
      · have : ¬ (heapAt h i).f < (heapAt h ((i - 1) / 2)).f := fun hlt => hcond ⟨by omega, hlt⟩
        rw [BitVec.lt_def] at this
        rw [hxi]
        omega
      · exact ho.others x hx hxl hxi

/-- An entry appended at the end is the only one that may be out of order. -/
theorem orderedButUp_append {h : List HeapEntry} (ho : HeapOrdered h) (e : HeapEntry) : OrderedButUp (h ++ [e]) h.length := by
  have old : ∀ x < h.length, key (h ++ [e]) x = key h x := fun x hx => by
    simp only [key, heapAt, List.getD_eq_getElem?_getD, List.getElem?_append_left hx]
  constructor
  · intro x hx hxl hne
    simp only [List.length_append, List.length_singleton] at hxl
    rw [old x (by omega), old _ (by omega)]
    exact ho x hx (by omega)
  · intro h0 x hx hxl hchild
    simp only [List.length_append, List.length_singleton] at hxl
    omega

theorem heapPush_perm (h : List HeapEntry) (e : HeapEntry) : (heapPush h e).Perm (e :: h) :=
  (siftUp_perm h.length (by simp)).trans (List.perm_append_singleton e h)

theorem heapPush_ordered {h : List HeapEntry} (ho : HeapOrdered h) (e : HeapEntry) : HeapOrdered (heapPush h e) :=
  siftUp_ordered le_rfl (by simp) (orderedButUp_append ho e)

/-- Settles O30: a push is an append and a sift-up. -/
theorem heapPushKeepsOrder : Obligations.HeapPushKeepsOrder :=
  fun h e => ⟨heapPush_perm h e, fun ho => heapPush_ordered ho e⟩

/-! ## Sift-down (42_tree.md R95) -/

/-- In order but for position i, which may be larger than its children; they respect i's parent. -/
structure OrderedButDown (h : List HeapEntry) (i : Nat) : Prop where
  others : ∀ x, 0 < x → x < h.length → (x - 1) / 2 ≠ i → key h ((x - 1) / 2) ≤ key h x
  above : 0 < i → ∀ x, 0 < x → x < h.length → (x - 1) / 2 = i → key h ((i - 1) / 2) ≤ key h x

/-- What the sift-down chooses: i itself where no child is smaller, else a child that is smaller than i and no larger than the other
child. -/
theorem smallerChild_cases (h : List HeapEntry) (i : Nat) :
    (smallerChild h i = i ∧ ∀ x, 0 < x → x < h.length → (x - 1) / 2 = i → key h i ≤ key h x) ∨
    ((smallerChild h i = 2 * i + 1 ∨ smallerChild h i = 2 * i + 2) ∧ smallerChild h i < h.length ∧
      key h (smallerChild h i) < key h i ∧ ∀ x, 0 < x → x < h.length → (x - 1) / 2 = i → key h (smallerChild h i) ≤ key h x) := by
  have children : ∀ x, 0 < x → (x - 1) / 2 = i → x = 2 * i + 1 ∨ x = 2 * i + 2 := fun x hx hp => by omega
  simp only [smallerChild, BitVec.lt_def]
  change _ ∨ _
  by_cases hl : 2 * i + 1 < h.length ∧ (heapAt h (2 * i + 1)).f.toNat < (heapAt h i).f.toNat
  · rw [if_pos hl]
    by_cases hr : 2 * i + 2 < h.length ∧ (heapAt h (2 * i + 2)).f.toNat < (heapAt h (2 * i + 1)).f.toNat
    · rw [if_pos hr]
      refine .inr ⟨.inr rfl, hr.1, hr.2.trans hl.2, fun x hx hxl hp => ?_⟩
      rcases children x hx hp with rfl | rfl
      · exact hr.2.le
      · exact le_rfl
    · rw [if_neg hr]
      refine .inr ⟨.inl rfl, hl.1, hl.2, fun x hx hxl hp => ?_⟩
      rcases children x hx hp with rfl | rfl
      · exact le_rfl
      · exact not_lt.1 fun hlt => hr ⟨hxl, hlt⟩
  · rw [if_neg hl]
    by_cases hr : 2 * i + 2 < h.length ∧ (heapAt h (2 * i + 2)).f.toNat < (heapAt h i).f.toNat
    · rw [if_pos hr]
      refine .inr ⟨.inr rfl, hr.1, hr.2, fun x hx hxl hp => ?_⟩
      rcases children x hx hp with rfl | rfl
      · exact hr.2.le.trans (not_lt.1 fun hlt => hl ⟨hxl, hlt⟩)
      · exact le_rfl
    · rw [if_neg hr]
      refine .inl ⟨rfl, fun x hx hxl hp => ?_⟩
      rcases children x hx hp with rfl | rfl
      · exact not_lt.1 fun hlt => hl ⟨hxl, hlt⟩
      · exact not_lt.1 fun hlt => hr ⟨hxl, hlt⟩

theorem siftDown_perm (fuel : Nat) {i : Nat} {h : List HeapEntry} (hi : i < h.length) : (siftDown fuel i h).Perm h := by
  induction fuel generalizing i h with
  | zero => exact List.Perm.refl _
  | succ fuel ih =>
    simp only [siftDown]
    split
    · exact List.Perm.refl _
    · rename_i hne
      rcases smallerChild_cases h i with ⟨hm, _⟩ | ⟨_, hm, _⟩
      · exact absurd hm hne
      · exact (ih (by rwa [heapSwap_length])).trans (heapSwap_perm hi hm)

/-- One level: after the swap the child's position is the only one that may be out of order. -/
theorem OrderedButDown.swap {h : List HeapEntry} {i m : Nat} (ho : OrderedButDown h i) (hm : m = 2 * i + 1 ∨ m = 2 * i + 2)
    (hml : m < h.length) (hlt : key h m < key h i) (hmin : ∀ x, 0 < x → x < h.length → (x - 1) / 2 = i → key h m ≤ key h x) :
    OrderedButDown (heapSwap h i m) m := by
  have hi : i < h.length := by omega
  constructor
  · intro x hx hxl hne
    rw [heapSwap_length] at hxl
    simp only [key_heapSwap hi hml, if_neg hne]
    by_cases hxm : x = m
    · rw [if_pos hxm, if_pos (show (x - 1) / 2 = i by omega)]
      exact hlt.le
    · rw [if_neg hxm]
      by_cases hxi : x = i
      · rw [if_pos hxi, if_neg (show (x - 1) / 2 ≠ i by omega), hxi]
        exact ho.above (by omega) m (by omega) hml (by omega)
      · rw [if_neg hxi]
        by_cases hparent : (x - 1) / 2 = i
        · rw [if_pos hparent]
          exact hmin x hx hxl hparent
        · rw [if_neg hparent]
          exact ho.others x hx hxl hparent
  · intro _ x hx hxl hchild
    rw [heapSwap_length] at hxl
    simp only [key_heapSwap hi hml]
    rw [if_neg (show (m - 1) / 2 ≠ m by omega), if_pos (show (m - 1) / 2 = i by omega), if_neg (show x ≠ m by omega),
      if_neg (show x ≠ i by omega)]
    exact hchild ▸ ho.others x hx hxl (by omega)

theorem siftDown_ordered {fuel i : Nat} {h : List HeapEntry} (hf : h.length ≤ fuel + i) (ho : OrderedButDown h i) :
    HeapOrdered (siftDown fuel i h) := by
  induction fuel generalizing i h with
  | zero =>
    intro x hx hxl
    have hxh : x < h.length := hxl
    exact ho.others x hx hxh (by omega)
  | succ fuel ih =>
    simp only [siftDown]
    rcases smallerChild_cases h i with ⟨hm, hmin⟩ | ⟨hm, hml, hlt, hmin⟩
    · rw [if_pos hm]
      intro x hx hxl
      by_cases hparent : (x - 1) / 2 = i
      · exact hparent ▸ hmin x hx hxl hparent
      · exact ho.others x hx hxl hparent
    · rw [if_neg (by omega)]
      exact ih (by rw [heapSwap_length]; omega) (ho.swap hm hml hlt hmin)

/-- The root is a smallest entry of a heap in order. -/
theorem key_root_le {h : List HeapEntry} (ho : HeapOrdered h) {x : Nat} (hx : x < h.length) : key h 0 ≤ key h x := by
  induction x using Nat.strong_induction_on with
  | h x ih =>
    rcases Nat.eq_zero_or_pos x with rfl | hpos
    · exact le_rfl
    · exact (ih ((x - 1) / 2) (by omega) (by omega)).trans (ho x hpos hx)

/-- What a pop sifts down: the last entry in the root's place. -/
def movedHeap (h : List HeapEntry) : List HeapEntry := (h.set 0 (heapAt h (h.length - 1))).take (h.length - 1)

theorem heapPop_eq (h : List HeapEntry) : heapPop h = (heapAt h 0, siftDown (h.length - 1) 0 (movedHeap h)) := rfl

@[simp] theorem movedHeap_length (h : List HeapEntry) : (movedHeap h).length = h.length - 1 := by
  simp [movedHeap]

theorem movedHeap_perm {h : List HeapEntry} (hne : h ≠ []) : h.Perm (heapAt h 0 :: movedHeap h) := by
  rcases List.eq_nil_or_concat h with rfl | ⟨init, last, rfl⟩
  · exact absurd rfl hne
  · rw [List.concat_eq_append]
    cases init with
    | nil => simp [movedHeap, heapAt]
    | cons e init =>
      have moved : movedHeap (e :: init ++ [last]) = last :: init := by
        simp [movedHeap, heapAt]
      rw [moved]
      exact (List.perm_append_singleton last init).cons e

theorem movedHeap_orderedButDown {h : List HeapEntry} (ho : HeapOrdered h) : OrderedButDown (movedHeap h) 0 := by
  have old : ∀ x, 0 < x → x < h.length - 1 → key (movedHeap h) x = key h x := fun x hx hxl => by
    simp only [key, heapAt, movedHeap, List.getD_eq_getElem?_getD, List.getElem?_take, if_pos hxl,
      List.getElem?_set_ne (Nat.ne_of_lt hx)]
  constructor
  · intro x hx hxl hne
    rw [movedHeap_length] at hxl
    rw [old x hx hxl, old _ (Nat.pos_of_ne_zero hne) (by omega)]
    exact ho x hx (by omega)
  · exact fun h0 => absurd h0 (lt_irrefl 0)

theorem heapPop_perm {h : List HeapEntry} (hne : h ≠ []) : h.Perm ((heapPop h).1 :: (heapPop h).2) := by
  rw [heapPop_eq]
  rcases Nat.eq_zero_or_pos (movedHeap h).length with h0 | hpos
  · have e : siftDown (h.length - 1) 0 (movedHeap h) = movedHeap h :=
      (List.eq_nil_of_length_eq_zero ((siftDown_length _ _ _).trans h0)).trans (List.eq_nil_of_length_eq_zero h0).symm
    rw [e]
    exact movedHeap_perm hne
  · exact (movedHeap_perm hne).trans ((siftDown_perm _ hpos).symm.cons _)

theorem heapPop_ordered {h : List HeapEntry} (ho : HeapOrdered h) : HeapOrdered (heapPop h).2 :=
  siftDown_ordered (by simp) (movedHeap_orderedButDown ho)

theorem heapPop_le {h : List HeapEntry} (ho : HeapOrdered h) {e : HeapEntry} (he : e ∈ h) : (heapPop h).1.f.toNat ≤ e.f.toNat := by
  obtain ⟨x, hx, rfl⟩ := List.getElem_of_mem he
  have hle := key_root_le ho hx
  rwa [key, key, heapAt_eq_getElem hx] at hle

/-- Settles O31: a pop puts the last entry at the root and sifts it down. -/
theorem heapPopRemovesSmallest : Obligations.HeapPopRemovesSmallest :=
  fun _ hne => ⟨heapPop_perm hne, fun ho => ⟨heapPop_ordered ho, fun _ he => heapPop_le ho he⟩⟩

/-! ## Seeding (42_tree.md R96) -/

/-- The entries that seed the heap, in table order. -/
def seedEntries (symbols : List SymEntry) : List HeapEntry := symbols.zipIdx.map (fun p => seedEntry p.1 p.2)

theorem heapOrdered_nil : HeapOrdered [] := fun _ _ hx => absurd hx (Nat.not_lt_zero _)

theorem foldl_heapPush (es : List HeapEntry) {h : List HeapEntry} (ho : HeapOrdered h) :
    (es.foldl heapPush h).Perm (es ++ h) ∧ HeapOrdered (es.foldl heapPush h) := by
  induction es generalizing h with
  | nil => exact ⟨List.Perm.refl _, ho⟩
  | cons e es ih =>
    obtain ⟨perm, ordered⟩ := ih (heapPush_ordered ho e)
    exact ⟨perm.trans (((heapPush_perm h e).append_left es).trans List.perm_middle), ordered⟩

theorem seedHeap_eq (symbols : List SymEntry) : seedHeap symbols = (seedEntries symbols).foldl heapPush [] := by
  rw [seedHeap, seedEntries, List.foldl_map]

/-- The seeded heap holds one entry for every symbol, and is in order. -/
theorem seedHeap_perm (symbols : List SymEntry) : (seedHeap symbols).Perm (seedEntries symbols) := by
  rw [seedHeap_eq]
  simpa using (foldl_heapPush (seedEntries symbols) heapOrdered_nil).1

theorem seedHeap_ordered (symbols : List SymEntry) : HeapOrdered (seedHeap symbols) := by
  rw [seedHeap_eq]
  exact (foldl_heapPush (seedEntries symbols) heapOrdered_nil).2

/-- The references of the seeds are the leaves 0 to N − 1. -/
theorem seedEntries_ref (symbols : List SymEntry) : (seedEntries symbols).map HeapEntry.ref = List.range symbols.length := by
  rw [seedEntries, List.map_map, List.range_eq_range']
  exact List.zipIdx_map_snd 0 symbols

/-- The frequency of a seed is that of its symbol: 32 bits fit 36. -/
theorem seedEntries_freq {symbols : List SymEntry} {e : HeapEntry} (he : e ∈ seedEntries symbols) :
    e.f.toNat = (symbols.getD e.ref { freq := 0, sym := 0 }).freq.toNat := by
  obtain ⟨⟨x, j⟩, hp, rfl⟩ := List.mem_map.1 he
  obtain ⟨hj, hx⟩ := List.mem_zipIdx' hp
  have hlt := x.freq.isLt
  simp only [seedEntry, BitVec.toNat_setWidth]
  rw [Nat.mod_eq_of_lt (by omega), List.getD_eq_getElem _ _ hj, hx]

/-! ## The pop order (42_tree.md R101) -/

theorem popOrder_perm {h : List HeapEntry} : (popOrder h.length h).Perm h := by
  suffices ∀ n, ∀ h : List HeapEntry, h.length = n → (popOrder n h).Perm h from this _ h rfl
  intro n
  induction n with
  | zero => intro h hl; rw [List.eq_nil_of_length_eq_zero hl]; exact List.Perm.refl _
  | succ n ih =>
    intro h hl
    have hne : h ≠ [] := List.ne_nil_of_length_eq_add_one hl
    exact ((ih (heapPop h).2 (by rw [heapPop_length, hl, Nat.add_sub_cancel])).cons _).trans (heapPop_perm hne).symm

/-- The entries leave a heap in order by rising frequency. -/
theorem popOrder_sorted (n : Nat) {h : List HeapEntry} (ho : HeapOrdered h) (hl : h.length = n) :
    (popOrder n h).Pairwise (fun a b => a.f.toNat ≤ b.f.toNat) := by
  induction n generalizing h with
  | zero => exact List.Pairwise.nil
  | succ n ih =>
    have hne : h ≠ [] := List.ne_nil_of_length_eq_add_one hl
    have hl' : (heapPop h).2.length = n := by rw [heapPop_length, hl, Nat.add_sub_cancel]
    refine List.pairwise_cons.2 ⟨fun e he => heapPop_le ho ?_, ih (heapPop_ordered ho) hl'⟩
    have hmem : e ∈ (heapPop h).2 := (hl' ▸ popOrder_perm).subset he
    exact (heapPop_perm hne).symm.subset (List.mem_cons_of_mem _ hmem)

/-- Settles O16: the references in pop order are the order of the symbols, and the entries' frequencies are the symbols'. -/
theorem heapOrderSortsSymbols : Obligations.HeapOrderSortsSymbols := by
  intro s hinv hp
  have parsed : s.phaseAtLeast .parsed = true := decide_eq_true hp
  have len := hinv.symbols_length
  have seeded := seedHeap_length s.symbols
  have popped : (popOrder s.symbols.length (seedHeap s.symbols)).Perm (seedEntries s.symbols) :=
    (seeded ▸ popOrder_perm).trans (seedHeap_perm s.symbols)
  have sorted := popOrder_sorted _ (seedHeap_ordered s.symbols) seeded
  refine ⟨(popOrder s.symbols.length (seedHeap s.symbols)).map HeapEntry.ref, _, exec_next .heapOrder s, ?perm, ?sorted, ?output⟩
  case perm =>
    rw [← len, ← seedEntries_ref]
    exact popped.map _
  case sorted =>
    rw [List.pairwise_map]
    refine sorted.imp_of_mem fun ha hb hle => ?_
    rwa [← seedEntries_freq (popped.subset ha), ← seedEntries_freq (popped.subset hb)]
  case output =>
    have bytes := s.out.bytes_put_self 0 (orderedSymbols s.symbols (seedHeap s.symbols))
    have outLen : (orderedSymbols s.symbols (seedHeap s.symbols)).length = s.symbolCount := by
      rw [orderedSymbols, List.length_map, popOrder_length, len]
    rw [outLen] at bytes
    rw [runOf, heapOrderRun_of_parsed parsed, List.map_map]
    exact bytes

end Machine
end Sys2Proof
end

section
/-! Combining (42_tree.md R97): the heap's entries are the roots of a forest over the node pool, and their frequencies add up to the
table's. So one root is left, with the exact sum, and every other pool node is the child of exactly one node. -/

namespace Sys2Proof
namespace Machine

/-! ## One combining step -/

/-- What a combining step takes from the heap and puts back (R97). -/
theorem combineOnce_spec (h : List HeapEntry) (pool : List PoolNode) (h2 : 2 ≤ h.length) :
    ∃ (a b : HeapEntry) (rest : List HeapEntry), h.Perm (a :: b :: rest) ∧ a = (heapPop h).1 ∧ b = (heapPop (heapPop h).2).1 ∧
      (combineOnce h pool).2 = pool ++ [.internal a.ref b.ref] ∧
      (combineOnce h pool).1.Perm ({ f := a.f + b.f, ref := pool.length } :: rest) := by
  have ne : h ≠ [] := List.ne_nil_of_length_pos (by omega)
  have ne' : (heapPop h).2 ≠ [] := List.ne_nil_of_length_pos (by rw [heapPop_length]; omega)
  exact ⟨_, _, (heapPop (heapPop h).2).2, (heapPop_perm ne).trans ((heapPop_perm ne').cons _), rfl, rfl, rfl, heapPush_perm _ _⟩

/-- The step takes the two smallest entries of a heap in order, and leaves one in order (R97). -/
theorem combineOnce_ordered {h : List HeapEntry} (pool : List PoolNode) (h2 : 2 ≤ h.length) (ho : HeapOrdered h) :
    ∃ (a b : HeapEntry) (rest : List HeapEntry), h.Perm (a :: b :: rest) ∧
      a = (heapPop h).1 ∧ b = (heapPop (heapPop h).2).1 ∧ a.f.toNat ≤ b.f.toNat ∧ (∀ e ∈ rest, b.f.toNat ≤ e.f.toNat) ∧
      (combineOnce h pool).2 = pool ++ [.internal a.ref b.ref] ∧
      (combineOnce h pool).1.Perm ({ f := a.f + b.f, ref := pool.length } :: rest) ∧ HeapOrdered (combineOnce h pool).1 := by
  obtain ⟨a, b, rest, perm, ha, hb, hpool, hheap⟩ := combineOnce_spec h pool h2
  have ne : h ≠ [] := List.ne_nil_of_length_pos (by omega)
  have left : (heapPop h).2.Perm (b :: rest) := by
    rw [← List.perm_cons a]
    exact (ha ▸ (heapPop_perm ne).symm).trans perm
  have ho' := heapPop_ordered ho
  refine ⟨a, b, rest, perm, ha, hb, ?_, fun e he => ?_, hpool, hheap, heapPush_ordered (heapPop_ordered ho') _⟩
  · exact ha ▸ heapPop_le ho (perm.symm.subset (by simp))
  · exact hb ▸ heapPop_le ho' (left.symm.subset (List.mem_cons_of_mem _ he))

/-! ## The forest -/

theorem poolChildren_of_leaf {pool : List PoolNode} {x : Nat} {sym : Byte} (h : pool[x]? = some (.leaf sym)) :
    poolChildren pool x = [] := by
  simp only [poolChildren, h]

theorem poolChildren_of_internal {pool : List PoolNode} {x l r : Nat} (h : pool[x]? = some (.internal l r)) :
    poolChildren pool x = [l, r] := by
  simp only [poolChildren, h]

theorem poolChildren_of_ge {pool : List PoolNode} {x : Nat} (h : pool.length ≤ x) : poolChildren pool x = [] := by
  simp only [poolChildren, List.getElem?_eq_none h]

theorem poolChildren_append {pool : List PoolNode} {x : Nat} (hx : x < pool.length) (more : List PoolNode) :
    poolChildren (pool ++ more) x = poolChildren pool x := by
  simp only [poolChildren, List.getElem?_append_left hx]

/-- The pool is the leaves, in table order, and then internal nodes; the entries' references, with the children of all pool nodes, are
every pool node once; children stand before their parents; and the entries' frequencies add up to the table's. -/
structure Forest (symbols : List SymEntry) (h : List HeapEntry) (pool : List PoolNode) : Prop where
  shape : ∃ inner : List PoolNode, pool = leaves symbols ++ inner ∧ (∀ x ∈ inner, ∃ l r, x = .internal l r) ∧
    inner.length + h.length = symbols.length
  below : ∀ x, ∀ c ∈ poolChildren pool x, c < x
  cover : (h.map HeapEntry.ref ++ (List.range pool.length).flatMap (poolChildren pool)).Perm (List.range pool.length)
  total : (h.map (fun e => e.f.toNat)).sum = (symbols.map (fun x => x.freq.toNat)).sum

/-- The sum of 12 32-bit frequencies has less than 36 bits (00_scope.md §4). -/
theorem freqSum_lt {symbols : List SymEntry} (h12 : symbols.length ≤ 12) :
    (symbols.map (fun x => x.freq.toNat)).sum < 2 ^ 36 := by
  have bound := List.sum_le_card_nsmul (symbols.map (fun x => x.freq.toNat)) (2 ^ 32) fun n hn => by
    obtain ⟨x, _, rfl⟩ := List.mem_map.1 hn
    exact x.freq.isLt.le
  rw [List.length_map, smul_eq_mul] at bound
  omega

theorem Forest.step {symbols : List SymEntry} {h : List HeapEntry} {pool : List PoolNode} (f : Forest symbols h pool)
    (h12 : symbols.length ≤ 12) (h2 : 2 ≤ h.length) :
    Forest symbols (combineOnce h pool).1 (combineOnce h pool).2 := by
  obtain ⟨a, b, rest, perm, -, -, hpool, hheap⟩ := combineOnce_spec h pool h2
  have old : ∀ x < pool.length, poolChildren (pool ++ [.internal a.ref b.ref]) x = poolChildren pool x :=
    fun x hx => poolChildren_append hx _
  have new : poolChildren (pool ++ [.internal a.ref b.ref]) pool.length = [a.ref, b.ref] :=
    poolChildren_of_internal (by simp)
  have refs : ∀ e ∈ h, e.ref < pool.length := fun e he =>
    List.mem_range.1 (f.cover.subset (List.mem_append_left _ (List.mem_map_of_mem he)))
  obtain ⟨inner, hinner, internal, len⟩ := f.shape
  have hlen := perm.length_eq
  have hlen' := hheap.length_eq
  simp only [List.length_cons] at hlen hlen'
  rw [hpool]
  refine ⟨⟨inner ++ [.internal a.ref b.ref], ?_, ?_, ?_⟩, ?_, ?_, ?_⟩
  · rw [hinner, List.append_assoc]
  · intro x hx
    rcases List.mem_append.1 hx with hx | hx
    · exact internal x hx
    · exact ⟨_, _, List.mem_singleton.1 hx⟩
  · rw [List.length_append, List.length_singleton]
    omega
  · intro x c hc
    rcases lt_trichotomy x pool.length with hx | rfl | hx
    · exact f.below x c (old x hx ▸ hc)
    · rw [new] at hc
      rcases List.mem_pair.1 hc with rfl | rfl
      · exact refs a (perm.symm.subset (by simp))
      · exact refs b (perm.symm.subset (by simp))
    · rw [poolChildren_of_ge (by simpa using hx)] at hc
      exact absurd hc List.not_mem_nil
  · have kids : (List.range (pool ++ [PoolNode.internal a.ref b.ref]).length).flatMap (poolChildren (pool ++ [.internal a.ref b.ref])) =
        (List.range pool.length).flatMap (poolChildren pool) ++ [a.ref, b.ref] := by
      rw [List.length_append, List.length_singleton, List.range_succ, List.flatMap_append]
      congr 1
      · exact List.flatMap_congr fun x hx => old x (List.mem_range.1 hx)
      · simp [new]
    rw [kids, List.length_append, List.length_singleton, List.range_succ]
    have entries : ((combineOnce h pool).1.map HeapEntry.ref).Perm (pool.length :: rest.map HeapEntry.ref) := hheap.map _
    have before : (a.ref :: b.ref :: rest.map HeapEntry.ref ++ (List.range pool.length).flatMap (poolChildren pool)).Perm
        (List.range pool.length) := ((perm.map HeapEntry.ref).symm.append_right _).trans f.cover
    refine (entries.append_right _).trans (List.Perm.trans ?_ (List.perm_append_singleton _ _).symm)
    refine (List.Perm.trans ?_ before).cons _
    exact List.Perm.trans (.of_eq (List.append_assoc _ _ _).symm) (List.perm_append_comm (l₂ := [a.ref, b.ref]))
  · have exact36 : (a.f + b.f).toNat = a.f.toNat + b.f.toNat := by
      have bound := freqSum_lt h12
      rw [← f.total, (perm.map (fun e => e.f.toNat)).sum_eq] at bound
      simp only [List.map_cons, List.sum_cons] at bound
      rw [BitVec.toNat_add, Nat.mod_eq_of_lt (by omega)]
    rw [(hheap.map (fun e => e.f.toNat)).sum_eq, ← f.total, (perm.map (fun e => e.f.toNat)).sum_eq]
    simp only [List.map_cons, List.sum_cons, exact36, Nat.add_assoc]

theorem Forest.of_length_one {symbols : List SymEntry} {h : List HeapEntry} {pool : List PoolNode} (f : Forest symbols h pool)
    (hl : h.length = 1) : ∃ e, h = [e] ∧ Forest symbols [e] pool := by
  obtain ⟨e, rfl⟩ := List.length_eq_one_iff.1 hl
  exact ⟨e, rfl, f⟩

/-- Combining until one entry is left. -/
theorem Forest.combine {symbols : List SymEntry} (h12 : symbols.length ≤ 12) (fuel : Nat) {h : List HeapEntry} {pool : List PoolNode}
    (f : Forest symbols h pool) (hpos : 1 ≤ h.length) (hf : h.length ≤ fuel + 1) :
    ∃ e, (combine fuel h pool).1 = [e] ∧ Forest symbols [e] (combine fuel h pool).2 := by
  induction fuel generalizing h pool with
  | zero => exact f.of_length_one (le_antisymm hf hpos)
  | succ fuel ih =>
    simp only [Machine.combine]
    split
    · rename_i h1
      have lens := combineOnce_lengths h pool h1
      exact ih (f.step h12 h1) (by omega) (by omega)
    · exact f.of_length_one (by omega)

theorem poolChildren_leaves (symbols : List SymEntry) (x : Nat) : poolChildren (leaves symbols) x = [] := by
  rcases lt_or_ge x (leaves symbols).length with hx | hx
  · refine poolChildren_of_leaf (sym := (symbols[x]'(by simpa [leaves] using hx)).sym) ?_
    simp [leaves, List.getElem?_eq_getElem (show x < symbols.length by simpa [leaves] using hx)]
  · exact poolChildren_of_ge hx

/-- The seeds are a forest of leaves (R96). -/
theorem seedHeap_forest (symbols : List SymEntry) : Forest symbols (seedHeap symbols) (leaves symbols) where
  shape := ⟨[], (List.append_nil _).symm, fun _ hx => absurd hx List.not_mem_nil, by simp⟩
  below x c hc := absurd hc (by simp [poolChildren_leaves])
  cover := by
    have noKids : (List.range (leaves symbols).length).flatMap (poolChildren (leaves symbols)) = [] :=
      List.flatMap_eq_nil_iff.2 fun x _ => poolChildren_leaves symbols x
    rw [noKids, List.append_nil, leaves, List.length_map, ← seedEntries_ref]
    exact (seedHeap_perm symbols).map _
  total := by
    rw [((seedHeap_perm symbols).map (fun e => e.f.toNat)).sum_eq, seedEntries, List.map_map]
    have freq : ((fun e : HeapEntry => e.f.toNat) ∘ fun p : SymEntry × Nat => seedEntry p.1 p.2) =
        (fun x : SymEntry => x.freq.toNat) ∘ Prod.fst := by
      funext p
      have hlt := p.1.freq.isLt
      simp only [Function.comp_apply, seedEntry, BitVec.toNat_setWidth]
      exact Nat.mod_eq_of_lt (by omega)
    rw [freq, ← List.map_map, List.zipIdx_map_fst]

/-- The grown tree: one entry is left, and it is the root of everything. -/
theorem grownTree_forest {symbols : List SymEntry} (h1 : 1 ≤ symbols.length) (h12 : symbols.length ≤ 12) :
    ∃ e, (grownTree symbols).1 = [e] ∧ Forest symbols [e] (grownTree symbols).2 :=
  (seedHeap_forest symbols).combine h12 _ (by rwa [seedHeap_length]) (by rw [seedHeap_length]; exact Nat.le_succ _)

/-- Settles O32: every step keeps the sum of the entries' frequencies, which 36 bits hold. -/
theorem frequencySumsAreExact : Obligations.FrequencySumsAreExact := by
  intro symbols h1 h12
  obtain ⟨e, he, f⟩ := grownTree_forest h1 h12
  exact ⟨e, he, by simpa using f.total⟩

end Machine
end Sys2Proof
end

section
/-! The layout (42_tree.md R98, R99): the breadth-first order visits every pool node once, and the children of the s-th internal node
stand at 2s + 1 and 2s + 2; so the laid out tree is full (§4). -/

namespace Sys2Proof
namespace Machine

/-! ## Trees in the pool -/

/-- Every pool node is the root or the child of exactly one node, and children stand before their parents. -/
structure PoolTree (pool : List PoolNode) (root : Nat) : Prop where
  below : ∀ x, ∀ c ∈ poolChildren pool x, c < x
  cover : (root :: (List.range pool.length).flatMap (poolChildren pool)).Perm (List.range pool.length)

theorem Forest.poolTree {symbols : List SymEntry} {e : HeapEntry} {pool : List PoolNode} (f : Forest symbols [e] pool) :
    PoolTree pool e.ref := ⟨f.below, f.cover⟩

theorem subperm_flatMap {xs ys : List Nat} (h : xs.Subperm ys) (f : Nat → List Nat) : (xs.flatMap f).Subperm (ys.flatMap f) := by
  obtain ⟨zs, perm, sub⟩ := h
  exact (perm.flatMap_right f).symm.subperm.trans (sub.flatMap f).subperm

namespace PoolTree

variable {pool : List PoolNode} {root : Nat}

theorem root_lt (t : PoolTree pool root) : root < pool.length := List.mem_range.1 (t.cover.subset List.mem_cons_self)

theorem child_lt (t : PoolTree pool root) {x c : Nat} (hc : c ∈ poolChildren pool x) : c < pool.length := by
  have hx : x < pool.length := not_le.1 fun hge => absurd (poolChildren_of_ge hge ▸ hc) List.not_mem_nil
  exact (t.below x c hc).trans hx

/-- A traversal that visits the root and the children of visited nodes, and what else is pending, visits no node twice. The
nodes above x are visited at most once, so x is pushed at most once. -/
theorem visited_subperm (t : PoolTree pool root) {o q : List Nat} (h : (o ++ q).Perm (root :: o.flatMap (poolChildren pool))) :
    o.Subperm (List.range pool.length) := by
  have inside : ∀ x ∈ o, x < pool.length := fun x hx => by
    rcases List.mem_cons.1 (h.subset (List.mem_append_left q hx)) with rfl | hx
    · exact t.root_lt
    · obtain ⟨y, -, hy⟩ := List.mem_flatMap.1 hx
      exact t.child_lt hy
  have once : ∀ n x, pool.length ≤ x + n → o.count x ≤ (List.range pool.length).count x := by
    intro n
    induction n with
    | zero =>
      intro x hx
      rw [List.count_eq_zero_of_not_mem fun hmem => absurd (inside x hmem) (by omega)]
      exact Nat.zero_le _
    | succ n ih =>
      intro x hx
      have above : (o.filter (x < ·)).Subperm (List.range pool.length) := by
        refine List.subperm_ext_iff.2 fun y hy => ?_
        have hxy : x < y := by simpa using (List.mem_filter.1 hy).2
        rw [List.count_filter (by simpa using hxy)]
        exact ih y (by omega)
      have low : ((o.filter (fun y => !decide (x < y))).flatMap (poolChildren pool)).count x = 0 := by
        refine List.count_eq_zero_of_not_mem fun hmem => ?_
        obtain ⟨y, hy, hc⟩ := List.mem_flatMap.1 hmem
        have hxy : ¬ x < y := by simpa using (List.mem_filter.1 hy).2
        exact hxy (t.below y x hc)
      calc o.count x ≤ (o ++ q).count x := by rw [List.count_append]; exact Nat.le_add_right _ _
        _ = (root :: o.flatMap (poolChildren pool)).count x := h.count_eq x
        _ = (root :: (o.filter (x < ·)).flatMap (poolChildren pool)).count x := by
          have split := ((List.filter_append_perm (x < ·) o).symm.flatMap_right (poolChildren pool)).count_eq x
          rw [List.flatMap_append, List.count_append, low, Nat.add_zero] at split
          rw [List.count_cons, List.count_cons, split]
        _ ≤ (root :: (List.range pool.length).flatMap (poolChildren pool)).count x :=
          ((List.subperm_cons root).2 (subperm_flatMap above _)).count_le x
        _ = (List.range pool.length).count x := t.cover.count_eq x
  exact List.subperm_ext_iff.2 fun x _ => once pool.length x (Nat.le_add_left _ _)

/-- A finished traversal visits every node once. -/
theorem visited_perm (t : PoolTree pool root) {o : List Nat} (h : o.Perm (root :: o.flatMap (poolChildren pool))) :
    o.Perm (List.range pool.length) := by
  have sub := t.visited_subperm (q := []) (by rwa [List.append_nil])
  have reached : ∀ n x, x < pool.length → pool.length ≤ x + n → x ∈ o := by
    intro n
    induction n with
    | zero => intro x hx hn; omega
    | succ n ih =>
      intro x hx hn
      rcases List.mem_cons.1 (t.cover.symm.subset (List.mem_range.2 hx)) with rfl | hmem
      · exact h.symm.subset List.mem_cons_self
      · obtain ⟨y, hy, hc⟩ := List.mem_flatMap.1 hmem
        have hxy := t.below y x hc
        exact h.symm.subset (List.mem_cons_of_mem _ (List.mem_flatMap.2 ⟨y, ih y (List.mem_range.1 hy) (by omega), hc⟩))
  refine sub.antisymm (List.nodup_range.subperm fun x hx => ?_)
  exact reached pool.length x (List.mem_range.1 hx) (Nat.le_add_left _ _)

end PoolTree

/-! ## The breadth-first order (R98) -/

/-- What was in the queue and what was pushed has left it or is still in it. -/
theorem breadthFirst_queue (pool : List PoolNode) (fuel : Nat) (queue : List Nat) :
    ∃ q, breadthFirst pool fuel queue ++ q = queue ++ (breadthFirst pool fuel queue).flatMap (poolChildren pool) ∧
      (q = [] ∨ (breadthFirst pool fuel queue).length = fuel) := by
  induction fuel generalizing queue with
  | zero => exact ⟨queue, by simp [breadthFirst], .inr rfl⟩
  | succ fuel ih =>
    cases queue with
    | nil => exact ⟨[], rfl, .inl rfl⟩
    | cons x queue =>
      obtain ⟨q, hq, hend⟩ := ih (queue ++ poolChildren pool x)
      refine ⟨q, ?_, hend.imp_right (congrArg (· + 1))⟩
      simpa [breadthFirst, List.append_assoc] using hq

/-- At x's turn the queue holds x and the nodes pushed since: what left before x was in the queue or was pushed before. -/
theorem breadthFirst_turn {pool : List PoolNode} {fuel : Nat} {queue before after : List Nat} {x : Nat}
    (h : breadthFirst pool fuel queue = before ++ x :: after) : ∃ q, queue ++ before.flatMap (poolChildren pool) = before ++ x :: q := by
  induction before generalizing fuel queue with
  | nil =>
    cases fuel with
    | zero => cases h
    | succ fuel =>
      cases queue with
      | nil => cases h
      | cons y queue =>
        injection h with hy _
        exact ⟨queue, by simp [hy]⟩
  | cons z before ih =>
    cases fuel with
    | zero => cases h
    | succ fuel =>
      cases queue with
      | nil => cases h
      | cons y queue =>
        injection h with hy htail
        obtain ⟨q, hq⟩ := ih htail
        exact ⟨q, by simpa [hy, List.append_assoc] using hq⟩

/-- The order in which the layout numbers the pool nodes. -/
abbrev layoutOrder (pool : List PoolNode) (root : Nat) : List Nat := breadthFirst pool pool.length [root]

/-- The internal nodes in that order. -/
abbrev internalOrder (pool : List PoolNode) (root : Nat) : List Nat := (layoutOrder pool root).filter (poolInternal pool)

namespace PoolTree

variable {pool : List PoolNode} {root : Nat}

/-- The queue is empty at the end. -/
theorem order_eq (t : PoolTree pool root) :
    layoutOrder pool root = root :: (layoutOrder pool root).flatMap (poolChildren pool) := by
  obtain ⟨q, hq, hend⟩ := breadthFirst_queue pool pool.length [root]
  have sub := t.visited_subperm (.of_eq hq)
  suffices q = [] by rwa [this, List.append_nil] at hq
  rcases hend with hnil | hfull
  · exact hnil
  · have perm := sub.perm_of_length_le (by rw [List.length_range, hfull])
    have total := (List.Perm.of_eq hq).trans (((perm.flatMap_right _).cons root).trans t.cover)
    have len := total.length_eq
    rw [List.length_append, hfull, List.length_range] at len
    exact List.eq_nil_of_length_eq_zero (by omega)

theorem order_perm (t : PoolTree pool root) : (layoutOrder pool root).Perm (List.range pool.length) :=
  t.visited_perm (.of_eq t.order_eq)

theorem order_nodup (t : PoolTree pool root) : (layoutOrder pool root).Nodup := t.order_perm.nodup_iff.2 List.nodup_range

theorem order_length (t : PoolTree pool root) : (layoutOrder pool root).length = pool.length := by
  rw [t.order_perm.length_eq, List.length_range]

theorem mem_order (t : PoolTree pool root) {x : Nat} : x ∈ layoutOrder pool root ↔ x < pool.length := by
  rw [t.order_perm.mem_iff, List.mem_range]

end PoolTree

theorem length_flatMap_poolChildren (pool : List PoolNode) (xs : List Nat) :
    (xs.flatMap (poolChildren pool)).length = 2 * (xs.filter (poolInternal pool)).length := by
  have two : ∀ x, (poolChildren pool x).length = if poolInternal pool x then 2 else 0 := fun x => by
    rcases hx : pool[x]? with _ | ⟨_⟩ | ⟨l, r⟩ <;> simp [poolInternal, poolChildren, hx]
  induction xs with
  | nil => rfl
  | cons x xs ih =>
    rw [List.flatMap_cons, List.length_append, ih, two, List.filter_cons]
    split
    · rw [List.length_cons]
      omega
    · exact Nat.zero_add _

namespace PoolTree

variable {pool : List PoolNode} {root : Nat}

/-- The s-th internal node is at most at position 2s, and its children are at 2s + 1 and 2s + 2 (R98). -/
theorem idxOf_children (t : PoolTree pool root) {x l r : Nat} (hx : pool[x]? = some (.internal l r)) :
    (layoutOrder pool root).idxOf x ≤ 2 * (internalOrder pool root).idxOf x ∧
    (layoutOrder pool root).idxOf l = 2 * (internalOrder pool root).idxOf x + 1 ∧
    (layoutOrder pool root).idxOf r = 2 * (internalOrder pool root).idxOf x + 2 := by
  have hkids := poolChildren_of_internal hx
  have hint : poolInternal pool x = true := by simp [poolInternal, hkids]
  obtain ⟨hlt, -⟩ := List.getElem?_eq_some_iff.1 hx
  obtain ⟨before, after, split⟩ := List.append_of_mem (t.mem_order.2 hlt)
  have nodup := t.order_nodup
  have hnot : x ∉ before := fun hmem => by
    rw [split, List.nodup_append] at nodup
    exact nodup.2.2 x hmem x List.mem_cons_self rfl
  have state : (internalOrder pool root).idxOf x = (before.filter (poolInternal pool)).length := by
    rw [internalOrder, split, List.filter_append, List.filter_cons_of_pos hint,
      List.idxOf_append_of_notMem (fun hmem => hnot (List.mem_filter.1 hmem).1), List.idxOf_cons_self, Nat.add_zero]
  have pos : (layoutOrder pool root).idxOf x = before.length := by
    rw [split, List.idxOf_append_of_notMem hnot, List.idxOf_cons_self, Nat.add_zero]
  have pushed := length_flatMap_poolChildren pool before
  have order := t.order_eq
  rw [split, List.flatMap_append, List.flatMap_cons, hkids, ← split] at order
  have at_pos : ∀ i c, ((root :: (before.flatMap (poolChildren pool) ++ ([l, r] ++ after.flatMap (poolChildren pool)))))[i]? = some c →
      (layoutOrder pool root).idxOf c = i := fun i c hc => by
    rw [← order] at hc
    obtain ⟨hi, rfl⟩ := List.getElem?_eq_some_iff.1 hc
    exact nodup.idxOf_getElem i hi
  refine ⟨?_, ?_, ?_⟩
  · obtain ⟨q, hq⟩ := breadthFirst_turn split
    have len := congrArg List.length hq
    simp only [List.length_append, List.length_cons, List.length_nil, pushed] at len
    omega
  · refine at_pos _ _ ?_
    rw [state, ← pushed]
    simp
  · refine at_pos _ _ ?_
    rw [state, ← pushed]
    simp

end PoolTree
end Machine
end Sys2Proof
end

section
/-! The tree that BUILD_TREE lays out (42_tree.md R98, R99): node by node, full, with the symbols at its leaves. -/

namespace Sys2Proof
namespace Machine

/-- The tree of a table of up to 12 symbols in the pool: N leaves, then N − 1 internal nodes. -/
theorem grownTree_spec {symbols : List SymEntry} (h1 : 1 ≤ symbols.length) (h12 : symbols.length ≤ 12) :
    PoolTree (grownTree symbols).2 (rootOf (grownTree symbols).1) ∧
    ∃ inner : List PoolNode, (grownTree symbols).2 = leaves symbols ++ inner ∧ (∀ x ∈ inner, ∃ l r, x = .internal l r) ∧
      inner.length + 1 = symbols.length := by
  obtain ⟨e, he, f⟩ := grownTree_forest h1 h12
  exact ⟨he ▸ f.poolTree, f.shape⟩

/-! ## Node by node (R99) -/

theorem layoutNode_of_leaf {pool : List PoolNode} {x : Nat} {sym : Byte} (hx : pool[x]? = some (.leaf sym)) (order internals : List Nat) :
    layoutNode pool order internals x = { kind := 0x01, value := sym, left := 0x00, right := 0x00 } := by
  simp only [layoutNode, hx]

theorem layoutNode_of_internal {pool : List PoolNode} {x l r : Nat} (hx : pool[x]? = some (.internal l r))
    (order internals : List Nat) :
    layoutNode pool order internals x =
      { kind := 0x00
        value := BitVec.ofNat 8 (internals.idxOf x)
        left := BitVec.ofNat 8 (order.idxOf l)
        right := BitVec.ofNat 8 (order.idxOf r) } := by
  simp only [layoutNode, hx, indexIn]

/-- The TREE_MEM node of pool node x. -/
abbrev layoutOf (pool : List PoolNode) (root x : Nat) : TreeNode :=
  layoutNode pool (layoutOrder pool root) (internalOrder pool root) x

theorem layoutTree_eq (pool : List PoolNode) (root : Nat) :
    layoutTree pool root = (layoutOrder pool root).map (layoutOf pool root) := rfl

theorem poolInternal_of_internal {pool : List PoolNode} {x l r : Nat} (hx : pool[x]? = some (.internal l r)) :
    poolInternal pool x = true := by
  simp [poolInternal, poolChildren_of_internal hx]

theorem poolInternal_of_leaf {pool : List PoolNode} {x : Nat} {sym : Byte} (hx : pool[x]? = some (.leaf sym)) :
    poolInternal pool x = false := by
  simp [poolInternal, poolChildren_of_leaf hx]

/-- A pool node is a leaf or internal. -/
theorem poolNode_cases {pool : List PoolNode} {x : Nat} (hx : x < pool.length) :
    (∃ sym, pool[x]? = some (.leaf sym)) ∨ ∃ l r, pool[x]? = some (.internal l r) := by
  rw [List.getElem?_eq_getElem hx]
  cases pool[x] with
  | leaf sym => exact .inl ⟨sym, rfl⟩
  | internal l r => exact .inr ⟨l, r, rfl⟩

theorem layoutOf_isInternal (pool : List PoolNode) (root : Nat) {x : Nat} (hx : x < pool.length) :
    (layoutOf pool root x).isInternal = poolInternal pool x := by
  rcases poolNode_cases hx with ⟨sym, h⟩ | ⟨l, r, h⟩
  · rw [layoutOf, layoutNode_of_leaf h, poolInternal_of_leaf h]
    rfl
  · rw [layoutOf, layoutNode_of_internal h, poolInternal_of_internal h]
    rfl

theorem layoutOf_isLeaf (pool : List PoolNode) (root : Nat) {x : Nat} (hx : x < pool.length) :
    (layoutOf pool root x).isLeaf = !poolInternal pool x := by
  rcases poolNode_cases hx with ⟨sym, h⟩ | ⟨l, r, h⟩
  · rw [layoutOf, layoutNode_of_leaf h, poolInternal_of_leaf h]
    rfl
  · rw [layoutOf, layoutNode_of_internal h, poolInternal_of_internal h]
    rfl

namespace PoolTree

variable {pool : List PoolNode} {root : Nat}

theorem layout_length (t : PoolTree pool root) : (layoutTree pool root).length = pool.length := by
  rw [layoutTree_eq, List.length_map, t.order_length]

theorem order_idxOf_lt (t : PoolTree pool root) {x : Nat} (hx : x < pool.length) : (layoutOrder pool root).idxOf x < pool.length := by
  rw [← t.order_length]
  exact List.idxOf_lt_length_of_mem (t.mem_order.2 hx)

/-- The node of pool node x stands at x's position in the order. -/
theorem nodeAt_idxOf (t : PoolTree pool root) {x : Nat} (hx : x < pool.length) :
    nodeAt (layoutTree pool root) ((layoutOrder pool root).idxOf x) = layoutOf pool root x := by
  have hi := List.idxOf_lt_length_of_mem (t.mem_order.2 hx)
  rw [nodeAt, List.getD_eq_getElem _ _ (by rwa [layoutTree_eq, List.length_map])]
  simp only [layoutTree_eq, List.getElem_map, List.getElem_idxOf]

/-- Every node is that of one pool node. -/
theorem exists_idxOf (t : PoolTree pool root) {i : Nat} (hi : i < (layoutTree pool root).length) :
    ∃ x < pool.length, (layoutOrder pool root).idxOf x = i := by
  rw [t.layout_length, ← t.order_length] at hi
  exact ⟨_, t.mem_order.1 (List.getElem_mem hi), t.order_nodup.idxOf_getElem i hi⟩

/-- Where the child fields of an internal node point (R98): the s-th one has the children 2s + 1 and 2s + 2. -/
theorem layoutOf_internal (t : PoolTree pool root) (h256 : pool.length ≤ 256) {x l r : Nat} (hx : pool[x]? = some (.internal l r)) :
    (layoutOf pool root x).value.toNat = (internalOrder pool root).idxOf x ∧
    (layoutOf pool root x).left.toNat = (layoutOrder pool root).idxOf l ∧
    (layoutOf pool root x).right.toNat = (layoutOrder pool root).idxOf r ∧
    (layoutOrder pool root).idxOf r < pool.length := by
  obtain ⟨-, hl, hr⟩ := t.idxOf_children hx
  have child : ∀ c ∈ [l, r], (layoutOrder pool root).idxOf c < pool.length := fun c hc =>
    t.order_idxOf_lt (t.child_lt (poolChildren_of_internal hx ▸ hc))
  have hl' := child l (by simp)
  have hr' := child r (by simp)
  rw [layoutOf, layoutNode_of_internal hx]
  simp only [BitVec.toNat_ofNat]
  refine ⟨Nat.mod_eq_of_lt (by omega), Nat.mod_eq_of_lt (by omega), Nat.mod_eq_of_lt (by omega), hr'⟩

/-- An internal node of the layout by its state index s: it stands at most at 2s, and its children at 2s + 1 and 2s + 2. -/
theorem nodeAt_internal (t : PoolTree pool root) (h256 : pool.length ≤ 256) {i : Nat} (hi : i < (layoutTree pool root).length)
    (hint : (nodeAt (layoutTree pool root) i).isInternal = true) :
    ∃ s, (nodeAt (layoutTree pool root) i).value.toNat = s ∧ i ≤ 2 * s ∧ 2 * s + 2 < pool.length ∧
      (nodeAt (layoutTree pool root) i).left.toNat = 2 * s + 1 ∧ (nodeAt (layoutTree pool root) i).right.toNat = 2 * s + 2 ∧
      ∃ x ∈ internalOrder pool root, (internalOrder pool root).idxOf x = s ∧ (layoutOrder pool root).idxOf x = i := by
  obtain ⟨x, hx, rfl⟩ := t.exists_idxOf hi
  rw [t.nodeAt_idxOf hx] at hint ⊢
  rw [layoutOf_isInternal _ _ hx] at hint
  rcases poolNode_cases hx with ⟨sym, h⟩ | ⟨l, r, h⟩
  · rw [poolInternal_of_leaf h] at hint
    cases hint
  · obtain ⟨pos, hl, hr⟩ := t.idxOf_children h
    obtain ⟨value, left, right, lt⟩ := t.layoutOf_internal h256 h
    exact ⟨_, value, pos, hr ▸ lt, left.trans hl, right.trans hr, x, List.mem_filter.2 ⟨t.mem_order.2 hx, hint⟩, rfl, rfl⟩

theorem childOf_internal (t : PoolTree pool root) (h256 : pool.length ≤ 256) {i : Nat} (hi : i < (layoutTree pool root).length)
    (hint : (nodeAt (layoutTree pool root) i).isInternal = true) (bit : Bool) :
    childOf (layoutTree pool root) i bit = 2 * (nodeAt (layoutTree pool root) i).value.toNat + 1 + bit.toNat := by
  obtain ⟨s, value, -, -, left, right, -⟩ := t.nodeAt_internal h256 hi hint
  cases bit
  · rw [childOf, if_neg Bool.false_ne_true, left, value]
    rfl
  · rw [childOf, if_pos rfl, right, value]
    rfl

/-- The state indices of the internal nodes, in their order. -/
theorem internal_values (t : PoolTree pool root) (h256 : pool.length ≤ 256) :
    ((layoutTree pool root).filter TreeNode.isInternal).map (fun x => x.value.toNat) = List.range (internalOrder pool root).length := by
  have nodes : (layoutTree pool root).filter TreeNode.isInternal = (internalOrder pool root).map (layoutOf pool root) := by
    rw [layoutTree_eq, List.filter_map]
    exact congrArg _ (List.filter_congr fun x hx => layoutOf_isInternal pool root (t.mem_order.1 hx))
  have nodup : (internalOrder pool root).Nodup := t.order_nodup.filter _
  rw [nodes, List.map_map]
  refine List.ext_getElem (by simp) fun i h1 h2 => ?_
  have hi : i < (internalOrder pool root).length := by simpa using h1
  obtain ⟨hmem, hint⟩ := List.mem_filter.1 (List.getElem_mem hi)
  rcases poolNode_cases (t.mem_order.1 hmem) with ⟨sym, h⟩ | ⟨l, r, h⟩
  · rw [poolInternal_of_leaf h] at hint
    cases hint
  · rw [List.getElem_map, Function.comp_apply, (t.layoutOf_internal h256 h).1, List.getElem_range, nodup.idxOf_getElem]

end PoolTree

/-! ## Leaves and internal nodes of the pool -/

section Shape

variable {symbols : List SymEntry} {inner : List PoolNode}

theorem getElem?_leaf {x : Nat} (hx : x < symbols.length) : (leaves symbols ++ inner)[x]? = some (.leaf symbols[x].sym) := by
  rw [List.getElem?_append_left (by simpa [leaves] using hx)]
  simp [leaves, hx]

theorem getElem?_inner (hinner : ∀ x ∈ inner, ∃ l r, x = .internal l r) {x : Nat} (hx : x < inner.length) :
    ∃ l r, (leaves symbols ++ inner)[symbols.length + x]? = some (.internal l r) := by
  obtain ⟨l, r, h⟩ := hinner _ (List.getElem_mem hx)
  refine ⟨l, r, ?_⟩
  rw [List.getElem?_append_right (by simp [leaves])]
  simp [leaves, hx, h]

theorem filter_leaf_range (hinner : ∀ x ∈ inner, ∃ l r, x = .internal l r) :
    (List.range (leaves symbols ++ inner).length).filter (fun x => !poolInternal (leaves symbols ++ inner) x) =
      List.range symbols.length := by
  rw [List.length_append, leaves, List.length_map, List.range_add, List.filter_append]
  have first : ∀ x ∈ List.range symbols.length, (!poolInternal (leaves symbols ++ inner) x) = true := fun x hx => by
    rw [poolInternal_of_leaf (getElem?_leaf (List.mem_range.1 hx))]
    rfl
  have second : ∀ x ∈ (List.range inner.length).map (symbols.length + ·), ¬ (!poolInternal (leaves symbols ++ inner) x) = true :=
    fun x hx => by
      obtain ⟨y, hy, rfl⟩ := List.mem_map.1 hx
      obtain ⟨l, r, h⟩ := getElem?_inner (symbols := symbols) hinner (List.mem_range.1 hy)
      rw [poolInternal_of_internal h]
      exact Bool.false_ne_true
  exact (congrArg₂ _ (List.filter_eq_self.2 first) (List.filter_eq_nil_iff.2 second)).trans (List.append_nil _)

theorem filter_internal_length (hinner : ∀ x ∈ inner, ∃ l r, x = .internal l r) :
    ((List.range (leaves symbols ++ inner).length).filter (poolInternal (leaves symbols ++ inner))).length = inner.length := by
  have both := List.length_eq_length_filter_add (l := List.range (leaves symbols ++ inner).length)
    (poolInternal (leaves symbols ++ inner))
  rw [filter_leaf_range hinner] at both
  simp only [List.length_range, List.length_append, leaves, List.length_map] at both ⊢
  omega

end Shape

/-! ## The tree of a table -/

theorem bool_eq_of_toNat_eq : ∀ b c : Bool, b.toNat = c.toNat → b = c := by decide

/-- The leaves of the tree, in some order, are those of the table. -/
theorem treeOf_leaves {symbols : List SymEntry} (h1 : 1 ≤ symbols.length) (h12 : symbols.length ≤ 12) :
    (((treeOf symbols).filter TreeNode.isLeaf).map TreeNode.value).Perm (symbols.map SymEntry.sym) := by
  obtain ⟨t, inner, hpool, hinner, hlen⟩ := grownTree_spec h1 h12
  rw [treeOf, layoutTree_eq, List.filter_map, List.map_map]
  generalize rootOf (grownTree symbols).1 = root at t ⊢
  have perm := (t.order_perm.filter (TreeNode.isLeaf ∘ layoutOf (grownTree symbols).2 root)).map
    (TreeNode.value ∘ layoutOf (grownTree symbols).2 root)
  refine perm.trans (.of_eq ?_)
  rw [List.filter_congr (p := TreeNode.isLeaf ∘ layoutOf _ root) (q := fun x => !poolInternal (grownTree symbols).2 x)
    fun x hx => layoutOf_isLeaf _ root (List.mem_range.1 hx), hpool, filter_leaf_range hinner]
  refine List.ext_getElem (by simp) fun i h1 h2 => ?_
  have hi : i < symbols.length := by simpa using h2
  simp only [List.getElem_map, List.getElem_range, Function.comp_apply, layoutOf, layoutNode_of_leaf (getElem?_leaf hi)]

theorem treeOf_fullTree {symbols : List SymEntry} (h1 : 1 ≤ symbols.length) (h12 : symbols.length ≤ 12) :
    FullTree (treeOf symbols) symbols.length := by
  obtain ⟨t, inner, hpool, hinner, hlen⟩ := grownTree_spec h1 h12
  have leafValues := (treeOf_leaves h1 h12).length_eq
  rw [treeOf] at *
  generalize rootOf (grownTree symbols).1 = root at *
  have size : (grownTree symbols).2.length = 2 * symbols.length - 1 := by
    rw [hpool, List.length_append, leaves, List.length_map]
    omega
  have h256 : (grownTree symbols).2.length ≤ 256 := by omega
  have internals : (internalOrder (grownTree symbols).2 root).length = symbols.length - 1 := by
    rw [(t.order_perm.filter _).length_eq, hpool, filter_internal_length hinner]
    omega
  have states := t.internal_values h256
  rw [internals] at states
  refine ⟨?size, ?kinds, ?leafCount, ?internalCount, ?children, ?apart, states⟩
  case size => rw [t.layout_length, size]
  case kinds =>
    intro n hn
    obtain ⟨x, hx, rfl⟩ := List.mem_map.1 hn
    have hlt := t.mem_order.1 hx
    have leaf := layoutOf_isLeaf (grownTree symbols).2 root hlt
    have int := layoutOf_isInternal (grownTree symbols).2 root hlt
    cases hp : poolInternal (grownTree symbols).2 x
    · exact .inl (by rw [leaf, hp]; rfl)
    · exact .inr (int.trans hp)
  case leafCount => simpa using leafValues
  case internalCount => simpa using congrArg List.length states
  case children =>
    intro i hi hint bit
    obtain ⟨s, value, pos, lt, -⟩ := t.nodeAt_internal h256 hi hint
    rw [t.childOf_internal h256 hi hint, value, t.layout_length]
    have := bit.toNat_le
    omega
  case apart =>
    intro i hi j hj hinti hintj b c same
    obtain ⟨s, value, -, -, -, -, x, hx, hs, rfl⟩ := t.nodeAt_internal h256 hi hinti
    obtain ⟨s', value', -, -, -, -, y, -, hs', rfl⟩ := t.nodeAt_internal h256 hj hintj
    rw [t.childOf_internal h256 hi hinti, t.childOf_internal h256 hj hintj, value, value'] at same
    have hb := b.toNat_le
    have hc := c.toNat_le
    have hss : s = s' := by omega
    have hxy : x = y := (List.idxOf_inj hx).1 (hs.trans (hss.trans hs'.symm))
    exact ⟨by rw [hxy], bool_eq_of_toNat_eq b c (by omega)⟩

/-- Settles O33: a step's heap law, and the layout of the grown pool, node by node. -/
theorem builtTreeIsFull : Obligations.BuiltTreeIsFull := by
  refine ⟨fun h pool h2 ho => combineOnce_ordered pool h2 ho, fun symbols h2 h12 => ?_⟩
  have h1 : 1 ≤ symbols.length := by omega
  refine ⟨treeOf_fullTree h1 h12, treeOf_leaves h1 h12, ?_⟩
  obtain ⟨t, inner, hpool, hinner, hlen⟩ := grownTree_spec h1 h12
  have size : (grownTree symbols).2.length = 2 * symbols.length - 1 := by
    rw [hpool, List.length_append, leaves, List.length_map]
    omega
  refine ⟨?leaves, size ▸ t.order_perm, ?root, fun x hx => ?node⟩
  case leaves =>
    rw [hpool, List.take_left' (by simp [leaves])]
    rfl
  case root =>
    have := congrArg List.head? t.order_eq
    rwa [List.head?_cons] at this
  case node =>
    rw [← size] at hx
    have child : ∀ c ∈ poolChildren (grownTree symbols).2 x,
        (layoutOrder (grownTree symbols).2 (rootOf (grownTree symbols).1))[(layoutOrder (grownTree symbols).2
          (rootOf (grownTree symbols).1)).idxOf c]? = some c := fun c hc => by
      have hc' := List.idxOf_lt_length_of_mem (t.mem_order.2 (t.child_lt hc))
      rw [List.getElem?_eq_getElem hc', List.getElem_idxOf]
    simp only [treeOf]
    rw [t.nodeAt_idxOf hx]
    rcases poolNode_cases hx with ⟨sym, h⟩ | ⟨l, r, h⟩
    · rw [h, layoutOf, layoutNode_of_leaf h]
      exact ⟨rfl, rfl⟩
    · obtain ⟨-, left, right, -⟩ := t.layoutOf_internal (by omega) h
      rw [poolChildren_of_internal h] at child
      simp only [h, left, right]
      exact ⟨(layoutOf_isInternal _ _ hx).trans (poolInternal_of_internal h), child l (by simp), child r (by simp)⟩

/-- Settles O34: the breadth-first order appends two children for every internal node. -/
theorem breadthFirstChildren : Obligations.BreadthFirstChildren := by
  intro symbols h2 h12 n hn hint
  obtain ⟨t, -⟩ := grownTree_spec (show 1 ≤ symbols.length by omega) h12
  have h256 : (grownTree symbols).2.length ≤ 256 := by
    have := treeOf_length symbols
    rw [treeOf, t.layout_length] at this
    omega
  obtain ⟨i, hi, rfl⟩ := List.getElem_of_mem hn
  have at_i : nodeAt (treeOf symbols) i = (treeOf symbols)[i] := List.getD_eq_getElem _ _ hi
  rw [← at_i] at hint ⊢
  obtain ⟨s, value, -, -, left, right, -⟩ := t.nodeAt_internal h256 hi hint
  rw [treeOf, value]
  exact ⟨left, right⟩

end Machine
end Sys2Proof
end

section
/-! The code words (42_tree.md R100): they lead to the leaves of the pool's tree, depth by depth. -/

namespace Sys2Proof
namespace Machine

/-! ## No code word is the start of another -/

/-- The words below a node start with its path. -/
theorem codesBelow_path {nodes : List TreeNode} {fuel i : Nat} {path : List Bool} {c : Byte × List Bool}
    (hc : c ∈ codesBelow nodes fuel i path) : path <+: c.2 := by
  induction fuel generalizing i path with
  | zero => cases hc
  | succ fuel ih =>
    simp only [codesBelow] at hc
    split at hc
    · rw [List.mem_singleton.1 hc]
    · split at hc
      · rcases List.mem_append.1 hc with hc | hc
        · exact (List.prefix_append _ _).trans (ih hc)
        · exact (List.prefix_append _ _).trans (ih hc)
      · cases hc

/-- Below a node without a symbol of its own the words are longer than its path. -/
theorem codesBelow_longer {nodes : List TreeNode} {fuel i : Nat} {path : List Bool} (h2 : 2 ≤ (codesBelow nodes fuel i path).length)
    {c : Byte × List Bool} (hc : c ∈ codesBelow nodes fuel i path) : path.length < c.2.length := by
  cases fuel with
  | zero => cases hc
  | succ fuel =>
    simp only [codesBelow] at hc h2
    split at hc
    · rename_i hleaf
      rw [if_pos hleaf] at h2
      exact absurd h2 (by simp)
    · split at hc
      · rcases List.mem_append.1 hc with hc | hc
        · have := (codesBelow_path hc).length_le
          rwa [List.length_append] at this
        · have := (codesBelow_path hc).length_le
          rwa [List.length_append] at this
      · cases hc

/-- Two words that part at a node. -/
theorem not_prefix_of_apart {path xs ys : List Bool} {b : Bool} (hx : path ++ [b] <+: xs) (hy : path ++ [!b] <+: ys) : ¬ xs <+: ys := by
  intro h
  have same := List.prefix_of_prefix_length_le (hx.trans h) hy (by simp)
  have last := List.append_cancel_left (same.eq_of_length (by simp))
  cases b <;> cases last

theorem codesBelow_pairwise (nodes : List TreeNode) (fuel i : Nat) (path : List Bool) :
    (codesBelow nodes fuel i path).Pairwise (fun a b => ¬ a.2 <+: b.2 ∧ ¬ b.2 <+: a.2) := by
  induction fuel generalizing i path with
  | zero => exact List.Pairwise.nil
  | succ fuel ih =>
    simp only [codesBelow]
    split
    · exact List.pairwise_singleton _ _
    · split
      · refine List.pairwise_append.2 ⟨ih _ _, ih _ _, fun a ha b hb => ?_⟩
        exact ⟨not_prefix_of_apart (codesBelow_path ha) (codesBelow_path hb),
          not_prefix_of_apart (codesBelow_path hb) (codesBelow_path ha)⟩
      · exact List.Pairwise.nil

/-! ## Depth first -/

/-- The pool nodes below x, depth first. -/
def depthFirst (pool : List PoolNode) : Nat → Nat → List Nat
  | 0, _ => []
  | fuel + 1, x => x :: (poolChildren pool x).flatMap (depthFirst pool fuel)

theorem depthFirst_perm {pool : List PoolNode} {root : Nat} (t : PoolTree pool root) {fuel x : Nat} (hx : x < fuel) :
    (depthFirst pool fuel x).Perm (x :: (depthFirst pool fuel x).flatMap (poolChildren pool)) := by
  induction fuel generalizing x with
  | zero => cases hx
  | succ fuel ih =>
    simp only [depthFirst, List.flatMap_cons, List.flatMap_assoc]
    refine List.Perm.cons _ ?_
    have below : ∀ c ∈ poolChildren pool x,
        (depthFirst pool fuel c).Perm ([c] ++ (depthFirst pool fuel c).flatMap (poolChildren pool)) := fun c hc =>
      ih (by have := t.below x c hc; omega)
    refine (List.Perm.flatMap_left _ below).trans ((List.flatMap_append_perm _ _ _).symm.trans ?_)
    rw [List.flatMap_singleton']

/-- Depth first the traversal visits every node once. -/
theorem PoolTree.depthFirst_perm {pool : List PoolNode} {root : Nat} (t : PoolTree pool root) :
    (depthFirst pool pool.length root).Perm (List.range pool.length) :=
  t.visited_perm (Machine.depthFirst_perm t t.root_lt)

/-! ## The code words of a layout -/

namespace PoolTree

variable {pool : List PoolNode} {root : Nat}

/-- The children of an internal pool node's TREE_MEM node are those of its children. -/
theorem childOf_idxOf (t : PoolTree pool root) (h256 : pool.length ≤ 256) {x l r : Nat} (hx : pool[x]? = some (.internal l r))
    (bit : Bool) :
    childOf (layoutTree pool root) ((layoutOrder pool root).idxOf x) bit = (layoutOrder pool root).idxOf (if bit then r else l) := by
  obtain ⟨hlt, -⟩ := List.getElem?_eq_some_iff.1 hx
  obtain ⟨-, left, right, -⟩ := t.layoutOf_internal h256 hx
  rw [childOf, t.nodeAt_idxOf hlt]
  cases bit
  · exact left
  · exact right

/-- The words below x's node: its own path at a leaf, else those below its children. -/
theorem codesBelow_idxOf (t : PoolTree pool root) (h256 : pool.length ≤ 256) (fuel : Nat) {x : Nat} (hx : x < pool.length)
    (path : List Bool) :
    (∃ sym, pool[x]? = some (.leaf sym) ∧ (layoutOf pool root x).value = sym ∧
      codesBelow (layoutTree pool root) (fuel + 1) ((layoutOrder pool root).idxOf x) path = [(sym, path)]) ∨
    ∃ l r, pool[x]? = some (.internal l r) ∧ l < pool.length ∧ r < pool.length ∧
      codesBelow (layoutTree pool root) (fuel + 1) ((layoutOrder pool root).idxOf x) path =
        codesBelow (layoutTree pool root) fuel ((layoutOrder pool root).idxOf l) (path ++ [false]) ++
        codesBelow (layoutTree pool root) fuel ((layoutOrder pool root).idxOf r) (path ++ [true]) := by
  have leaf := layoutOf_isLeaf pool root hx
  have int := layoutOf_isInternal pool root hx
  simp only [codesBelow, t.nodeAt_idxOf hx, leaf, int]
  rcases poolNode_cases hx with ⟨sym, h⟩ | ⟨l, r, h⟩
  · have value : (layoutOf pool root x).value = sym := by rw [layoutOf, layoutNode_of_leaf h]
    refine .inl ⟨sym, h, value, ?_⟩
    rw [poolInternal_of_leaf h, value]
    rfl
  · have kids : ∀ c ∈ [l, r], c < pool.length := fun c hc => t.child_lt (poolChildren_of_internal h ▸ hc)
    refine .inr ⟨l, r, h, kids l (by simp), kids r (by simp), ?_⟩
    rw [poolInternal_of_internal h, t.childOf_idxOf h256 h false, t.childOf_idxOf h256 h true]
    rfl

theorem codesBelow_lengths (t : PoolTree pool root) (h256 : pool.length ≤ 256) (fuel : Nat) {x : Nat} (hx : x < pool.length)
    (path : List Bool) :
    (codesBelow (layoutTree pool root) fuel ((layoutOrder pool root).idxOf x) path).map (fun c => c.2.length) =
      leafDepths pool fuel x path.length := by
  induction fuel generalizing x path with
  | zero => rfl
  | succ fuel ih =>
    rcases t.codesBelow_idxOf h256 fuel hx path with ⟨sym, h, -, codes⟩ | ⟨l, r, h, hl, hr, codes⟩
    · rw [codes]
      simp only [leafDepths, h]
      rfl
    · rw [codes, List.map_append, ih hl, ih hr]
      simp only [leafDepths, h, List.length_append, List.length_singleton]

theorem codesBelow_symbols (t : PoolTree pool root) (h256 : pool.length ≤ 256) (fuel : Nat) {x : Nat} (hx : x < pool.length)
    (path : List Bool) :
    (codesBelow (layoutTree pool root) fuel ((layoutOrder pool root).idxOf x) path).map Prod.fst =
      ((depthFirst pool fuel x).filter (fun y => !poolInternal pool y)).map (fun y => (layoutOf pool root y).value) := by
  induction fuel generalizing x path with
  | zero => rfl
  | succ fuel ih =>
    rcases t.codesBelow_idxOf h256 fuel hx path with ⟨sym, h, value, codes⟩ | ⟨l, r, h, hl, hr, codes⟩
    · rw [codes, depthFirst, poolChildren_of_leaf h]
      simp [poolInternal_of_leaf h, value]
    · rw [codes, depthFirst, poolChildren_of_internal h, List.map_append, ih hl, ih hr]
      simp [poolInternal_of_internal h]

end PoolTree

/-- Above n leaves a path meets internal nodes of falling indices only, so a leaf below x is at most x + 1 − n deeper. -/
theorem leafDepths_le {pool : List PoolNode} {root n : Nat} (t : PoolTree pool root)
    (internals : ∀ x l r, pool[x]? = some (.internal l r) → n ≤ x) (fuel : Nat) {x d e : Nat} (he : e ∈ leafDepths pool fuel x d) :
    e ≤ d + (x + 1 - n) := by
  induction fuel generalizing x d with
  | zero => cases he
  | succ fuel ih =>
    simp only [leafDepths] at he
    split at he
    · rename_i l r h
      have hn := internals x l r h
      have lower : ∀ c ∈ poolChildren pool x, e ∈ leafDepths pool fuel c (d + 1) → e ≤ d + (x + 1 - n) := fun c hc hec => by
        have hcx := t.below x c hc
        have := ih hec
        omega
      rw [poolChildren_of_internal h] at lower
      rcases List.mem_append.1 he with he | he
      · exact lower l (by simp) he
      · exact lower r (by simp) he
    · exact (List.mem_singleton.1 he).le.trans (Nat.le_add_right _ _)
    · cases he

/-- Settles O35: the code words follow the leaves of the pool's tree in depth-first order. -/
theorem codeWordsArePrefixFree : Obligations.CodeWordsArePrefixFree := by
  intro symbols h2 h12 codes
  obtain ⟨t, inner, hpool, hinner, hlen⟩ := grownTree_spec (show 1 ≤ symbols.length by omega) h12
  have size : (grownTree symbols).2.length = 2 * symbols.length - 1 := by
    rw [hpool, List.length_append, leaves, List.length_map]
    omega
  have h256 : (grownTree symbols).2.length ≤ 256 := by omega
  have atRoot : (layoutOrder (grownTree symbols).2 (rootOf (grownTree symbols).1)).idxOf (rootOf (grownTree symbols).1) = 0 := by
    rw [t.order_eq, List.idxOf_cons_self]
  have fromRoot : codes = codesBelow (treeOf symbols) (grownTree symbols).2.length
      ((layoutOrder (grownTree symbols).2 (rootOf (grownTree symbols).1)).idxOf (rootOf (grownTree symbols).1)) [] := by
    rw [atRoot, ← t.layout_length]
    rfl
  have symbolsPerm : (codes.map Prod.fst).Perm (symbols.map SymEntry.sym) := by
    rw [fromRoot, treeOf, t.codesBelow_symbols h256 _ t.root_lt]
    have perm := (t.depthFirst_perm.trans t.order_perm.symm).filter (fun y => !poolInternal (grownTree symbols).2 y)
    refine ((perm.map _).trans (.of_eq ?_)).trans (treeOf_leaves (by omega) h12)
    rw [treeOf, layoutTree_eq, List.filter_map, List.map_map]
    exact congrArg _ (List.filter_congr fun x hx => (layoutOf_isLeaf _ _ (t.mem_order.1 hx)).symm)
  have depths : codes.map (fun c => c.2.length) =
      leafDepths (grownTree symbols).2 (grownTree symbols).2.length (rootOf (grownTree symbols).1) 0 := by
    rw [fromRoot, treeOf, t.codesBelow_lengths h256 _ t.root_lt]
    rfl
  have count : codes.length = symbols.length := by simpa using symbolsPerm.length_eq
  have internals : ∀ x l r, (grownTree symbols).2[x]? = some (.internal l r) → symbols.length ≤ x := fun x l r hx => by
    refine not_lt.1 fun hlt => ?_
    rw [hpool, getElem?_leaf hlt] at hx
    cases hx
  refine ⟨count, symbolsPerm, codesBelow_pairwise _ _ _ _, fun c hc => ⟨?_, ?_⟩, ?_⟩
  · exact codesBelow_longer (count ▸ h2 : 2 ≤ codes.length) hc
  · have mem : c.2.length ∈ codes.map (fun c => c.2.length) := List.mem_map_of_mem hc
    rw [depths] at mem
    have := leafDepths_le t internals _ mem
    have := t.root_lt
    omega
  · rw [depths]
    rfl

end Machine
end Sys2Proof
end

section
/-! Slots (43_tables.md): SLOTFN as the symbols that a byte's bits walk to and the node where they end; a slot's count, mask and next
state; and TABLE_MEM while PHASE = TABLES. -/

namespace Sys2Proof
namespace Machine

/-! ## The tree by state indices -/

/-- A full tree in breadth-first layout: the node of state s stands at most at 2s, and its children at 2s + 1 and 2s + 2 (R98). -/
structure LaidTree (nodes : List TreeNode) (n : Nat) : Prop extends FullTree nodes n where
  early : ∀ i < nodes.length, (nodeAt nodes i).isInternal = true → i ≤ 2 * (nodeAt nodes i).value.toNat
  child : ∀ i < nodes.length, (nodeAt nodes i).isInternal = true →
    ∀ bit, childOf nodes i bit = 2 * (nodeAt nodes i).value.toNat + 1 + bit.toNat

theorem treeOf_laidTree {symbols : List SymEntry} (h1 : 1 ≤ symbols.length) (h12 : symbols.length ≤ 12) :
    LaidTree (treeOf symbols) symbols.length := by
  obtain ⟨t, -⟩ := grownTree_spec h1 h12
  have h256 : (grownTree symbols).2.length ≤ 256 := by
    have := treeOf_length symbols
    rw [treeOf, t.layout_length] at this
    omega
  refine { treeOf_fullTree h1 h12 with early := fun i hi hint => ?_, child := fun i hi hint bit => t.childOf_internal h256 hi hint bit }
  obtain ⟨s, value, pos, -⟩ := t.nodeAt_internal h256 hi hint
  exact value ▸ pos

theorem nodeAt_of_length_le {nodes : List TreeNode} {i : Nat} (h : nodes.length ≤ i) : nodeAt nodes i = TreeNode.unused := by
  rw [nodeAt, List.getD_eq_default _ _ h]

theorem TreeNode.not_isLeaf_of_isInternal {n : TreeNode} (h : n.isInternal = true) : n.isLeaf = false := by
  rw [TreeNode.isInternal, beq_iff_eq] at h
  rw [TreeNode.isLeaf, h]
  rfl

namespace LaidTree

variable {nodes : List TreeNode} {n : Nat}

theorem lt_length_of_isInternal {i : Nat} (hint : (nodeAt nodes i).isInternal = true) : i < nodes.length := by
  refine not_le.1 fun h => ?_
  rw [nodeAt_of_length_le h] at hint
  cases hint

theorem isLeaf_or_isInternal (t : LaidTree nodes n) {i : Nat} (hi : i < nodes.length) :
    (nodeAt nodes i).isLeaf = true ∨ (nodeAt nodes i).isInternal = true := by
  rw [nodeAt, List.getD_eq_getElem _ _ hi]
  exact t.kinds _ (List.getElem_mem hi)

/-- A child is a leaf, or an internal node other than the root. -/
theorem child_cases (t : LaidTree nodes n) {i : Nat} (hint : (nodeAt nodes i).isInternal = true) (bit : Bool) :
    childOf nodes i bit < nodes.length ∧ childOf nodes i bit ≠ 0 ∧
    ((nodeAt nodes (childOf nodes i bit)).isLeaf = true ∨
      (nodeAt nodes (childOf nodes i bit)).isLeaf = false ∧ (nodeAt nodes (childOf nodes i bit)).isInternal = true) := by
  obtain ⟨above, inside⟩ := t.children i (lt_length_of_isInternal hint) hint bit
  refine ⟨inside, by omega, (t.isLeaf_or_isInternal inside).imp_right fun h => ⟨TreeNode.not_isLeaf_of_isInternal h, h⟩⟩

/-- Two internal nodes with one state index have one place for their children. -/
theorem eq_of_value_eq (t : LaidTree nodes n) {i j : Nat} (hi : (nodeAt nodes i).isInternal = true)
    (hj : (nodeAt nodes j).isInternal = true) (h : (nodeAt nodes i).value.toNat = (nodeAt nodes j).value.toNat) : i = j := by
  have li := lt_length_of_isInternal hi
  have lj := lt_length_of_isInternal hj
  exact (t.apart i li j lj hi hj false false (by rw [t.child i li hi, t.child j lj hj, h])).1

theorem value_lt (t : LaidTree nodes n) {i : Nat} (hint : (nodeAt nodes i).isInternal = true) :
    (nodeAt nodes i).value.toNat < n - 1 := by
  have hi := lt_length_of_isInternal hint
  rw [← List.mem_range, ← t.states]
  refine List.mem_map_of_mem (List.mem_filter.2 ⟨?_, hint⟩)
  rw [nodeAt, List.getD_eq_getElem _ _ hi]
  exact List.getElem_mem hi

/-- Every state index below n − 1 is that of an internal node. -/
theorem exists_state (t : LaidTree nodes n) {st : Nat} (hst : st < n - 1) :
    ∃ x ∈ nodes, x.isInternal = true ∧ x.value.toNat = st := by
  have mem : st ∈ (nodes.filter TreeNode.isInternal).map (fun x => x.value.toNat) := t.states ▸ List.mem_range.2 hst
  obtain ⟨x, hx, rfl⟩ := List.mem_map.1 mem
  obtain ⟨hmem, hint⟩ := List.mem_filter.1 hx
  exact ⟨x, hmem, hint, rfl⟩

/-- Node 0 is the root: the internal node of state 0. -/
theorem root (t : LaidTree nodes n) (h2 : 2 ≤ n) : (nodeAt nodes 0).isInternal = true ∧ (nodeAt nodes 0).value.toNat = 0 := by
  obtain ⟨x, hx, hint, value⟩ := t.exists_state (show 0 < n - 1 by omega)
  obtain ⟨i, hi, rfl⟩ := List.getElem_of_mem hx
  rw [← List.getD_eq_getElem _ TreeNode.unused hi] at hint value
  have early := t.early i hi hint
  obtain rfl : i = 0 := by rw [nodeAt, value] at early; omega
  exact ⟨hint, value⟩

theorem value_eq_zero_iff (t : LaidTree nodes n) (h2 : 2 ≤ n) {i : Nat} (hint : (nodeAt nodes i).isInternal = true) :
    (nodeAt nodes i).value.toNat = 0 ↔ i = 0 := by
  obtain ⟨rootInternal, rootValue⟩ := t.root h2
  exact ⟨fun h => t.eq_of_value_eq hint rootInternal (h.trans rootValue.symm), fun h => h ▸ rootValue⟩

/-- node(s) in TREE_MEM (43_tables.md R106). -/
theorem nodeOfState_spec (t : LaidTree nodes n) {st : Nat} (hst : st < n - 1) :
    (nodeAt nodes (nodeOfState (treeEntries nodes) st)).isInternal = true ∧
    (nodeAt nodes (nodeOfState (treeEntries nodes) st)).value.toNat = st := by
  obtain ⟨x, hx, hint, value⟩ := t.exists_state hst
  have found : (treeEntries nodes).findIdx (fun n => n.isInternal && n.value.toNat == st) < (treeEntries nodes).length :=
    List.findIdx_lt_length_of_exists ⟨x, List.mem_append_left _ hx, by simp [hint, value]⟩
  have spec := List.findIdx_getElem (w := found)
  rw [← List.getD_eq_getElem _ TreeNode.unused found] at spec
  rw [← nodeAt_treeEntries]
  simpa [nodeOfState, nodeAt] using spec

/-- node(s) of a node's own state is that node. -/
theorem nodeOfState_value (t : LaidTree nodes n) {i : Nat} (hint : (nodeAt nodes i).isInternal = true) :
    nodeOfState (treeEntries nodes) (nodeAt nodes i).value.toNat = i := by
  obtain ⟨internal, value⟩ := t.nodeOfState_spec (t.value_lt hint)
  exact t.eq_of_value_eq internal hint value

end LaidTree

/-! ## The walk through some bits of a byte -/

/-- The bit indices of a byte, from bit 7 down. -/
abbrev bitIndices : List Nat := [7, 6, 5, 4, 3, 2, 1, 0]

/-- The symbols that the walk emits, each with the bit index where it ends (43_tables.md R106). -/
def walkOutput (nodes : List TreeNode) (v : Byte) : List Nat → Nat → List (Byte × Nat)
  | [], _ => []
  | i :: is, cur =>
    let child := childOf nodes cur (v.getLsbD i)
    if (nodeAt nodes child).isLeaf then ((nodeAt nodes child).value, i) :: walkOutput nodes v is 0 else walkOutput nodes v is child

/-- The node where the walk ends. -/
def walkEnd (nodes : List TreeNode) (v : Byte) : List Nat → Nat → Nat
  | [], cur => cur
  | i :: is, cur =>
    let child := childOf nodes cur (v.getLsbD i)
    walkEnd nodes v is (if (nodeAt nodes child).isLeaf then 0 else child)

theorem foldl_walkBit (nodes : List TreeNode) (v : Byte) (is : List Nat) (w : Walk) :
    is.foldl (fun w i => walkBit nodes w i (v.getLsbD i)) w =
      { cur := walkEnd nodes v is w.cur
        emitted := w.emitted ++ (walkOutput nodes v is w.cur).map Prod.fst
        ends := w.ends ++ (walkOutput nodes v is w.cur).map Prod.snd } := by
  induction is generalizing w with
  | nil => simp [walkEnd, walkOutput]
  | cons i is ih =>
    rw [List.foldl_cons, ih, walkBit]
    by_cases hleaf : (nodeAt nodes (childOf nodes w.cur (v.getLsbD i))).isLeaf = true <;> simp [walkEnd, walkOutput, hleaf]

theorem getLsbD_natCast_one_shiftLeft (e : Nat) {i : Nat} (hi : i < 8) : ((1 <<< e : Nat) : Byte).getLsbD i = decide (e = i) := by
  rw [BitVec.natCast_eq_ofNat, BitVec.getLsbD_ofNat, Nat.one_shiftLeft, Nat.testBit_two_pow, decide_eq_true hi, Bool.true_and]

theorem getLsbD_foldl_mask (ends : List Nat) (m : Byte) {i : Nat} (hi : i < 8) :
    (ends.foldl (fun (m : Byte) i => m ||| ((1 <<< i : Nat) : Byte)) m).getLsbD i = (m.getLsbD i || decide (i ∈ ends)) := by
  induction ends generalizing m with
  | nil => simp
  | cons e ends ih =>
    rw [List.foldl_cons, ih, BitVec.getLsbD_or, getLsbD_natCast_one_shiftLeft e hi, Bool.or_assoc]
    simp [List.mem_cons, Bool.decide_or, eq_comm]

/-- A bit of a mask (43_tables.md R108). -/
theorem getLsbD_maskOf (ends : List Nat) {i : Nat} (hi : i < 8) : (maskOf ends).getLsbD i = decide (i ∈ ends) := by
  simpa [maskOf] using getLsbD_foldl_mask ends 0 hi

/-- A part of a list without repetition is what the list has of it. -/
theorem filter_mem_of_sublist {xs ys : List Nat} (h : ys.Sublist xs) (nodup : xs.Nodup) : xs.filter (fun x => decide (x ∈ ys)) = ys := by
  induction h with
  | slnil => rfl
  | @cons ys xs x h ih =>
    obtain ⟨hx, nodup⟩ := List.nodup_cons.1 nodup
    rw [List.filter_cons_of_neg (by simpa using fun hmem => hx (h.subset hmem)), ih nodup]
  | @cons_cons ys xs x h ih =>
    obtain ⟨hx, nodup⟩ := List.nodup_cons.1 nodup
    rw [List.filter_cons_of_pos (by simp)]
    refine congrArg (x :: ·) ((List.filter_congr fun y hy => ?_).trans (ih nodup))
    simp [show y ≠ x from fun e => hx (e ▸ hy)]

/-- Every set of bit indices, from bit 7 down, is read back from its mask (43_tables.md R108). -/
theorem setBits_maskOf {ends : List Nat} (h : ends.Sublist bitIndices) : setBits (maskOf ends) = ends := by
  refine (List.filter_congr fun i hi => getLsbD_maskOf ends (i := i) ?_).trans (filter_mem_of_sublist h (by decide))
  have small : ∀ i ∈ bitIndices, i < 8 := by decide
  exact small i hi

theorem walkOutput_sublist (nodes : List TreeNode) (v : Byte) (is : List Nat) (cur : Nat) :
    ((walkOutput nodes v is cur).map Prod.snd).Sublist is := by
  induction is generalizing cur with
  | nil => exact List.Sublist.slnil
  | cons i is ih =>
    simp only [walkOutput]
    split
    · exact (ih 0).cons_cons i
    · exact (ih _).cons i

theorem slotFn_eq (nodes : List TreeNode) (st : Nat) (v : Byte) :
    slotFn nodes st v =
      { syms := (walkOutput nodes v bitIndices (nodeOfState nodes st)).map Prod.fst
        next := (nodeAt nodes (walkEnd nodes v bitIndices (nodeOfState nodes st))).value.toNat
        mask := maskOf ((walkOutput nodes v bitIndices (nodeOfState nodes st)).map Prod.snd) } := by
  simp only [slotFn, walkByte, foldl_walkBit, List.nil_append]

theorem childOf_treeEntries (nodes : List TreeNode) (i : Nat) (bit : Bool) : childOf (treeEntries nodes) i bit = childOf nodes i bit := by
  simp only [childOf, nodeAt_treeEntries]

theorem walkOutput_treeEntries (nodes : List TreeNode) (v : Byte) (is : List Nat) (cur : Nat) :
    walkOutput (treeEntries nodes) v is cur = walkOutput nodes v is cur := by
  induction is generalizing cur with
  | nil => rfl
  | cons i is ih => simp only [walkOutput, childOf_treeEntries, nodeAt_treeEntries, ih]

theorem walkEnd_treeEntries (nodes : List TreeNode) (v : Byte) (is : List Nat) (cur : Nat) :
    walkEnd (treeEntries nodes) v is cur = walkEnd nodes v is cur := by
  induction is generalizing cur with
  | nil => rfl
  | cons i is ih => simp only [walkEnd, childOf_treeEntries, nodeAt_treeEntries, ih]

theorem slotFn_treeEntries (nodes : List TreeNode) (st : Nat) (v : Byte) :
    slotFn (treeEntries nodes) st v =
      { syms := (walkOutput nodes v bitIndices (nodeOfState (treeEntries nodes) st)).map Prod.fst
        next := (nodeAt nodes (walkEnd nodes v bitIndices (nodeOfState (treeEntries nodes) st))).value.toNat
        mask := maskOf ((walkOutput nodes v bitIndices (nodeOfState (treeEntries nodes) st)).map Prod.snd) } := by
  rw [slotFn_eq, walkOutput_treeEntries, walkEnd_treeEntries, nodeAt_treeEntries]

/-- A slot's mask has the bits where its symbols end. -/
theorem setBits_slotFn (nodes : List TreeNode) (st : Nat) (v : Byte) :
    setBits (slotFn nodes st v).mask = (walkOutput nodes v bitIndices (nodeOfState nodes st)).map Prod.snd := by
  rw [slotFn_eq]
  exact setBits_maskOf (walkOutput_sublist _ _ _ _)

theorem setBits_slotFn_length (nodes : List TreeNode) (st : Nat) (v : Byte) :
    (setBits (slotFn nodes st v).mask).length = (slotFn nodes st v).syms.length := by
  rw [setBits_slotFn, slotFn_eq, List.length_map, List.length_map]

namespace LaidTree

variable {nodes : List TreeNode} {n : Nat}

/-- The node after one more bit is internal. -/
theorem step_isInternal (t : LaidTree nodes n) (h2 : 2 ≤ n) {cur : Nat} (hint : (nodeAt nodes cur).isInternal = true) (bit : Bool) :
    (nodeAt nodes (if (nodeAt nodes (childOf nodes cur bit)).isLeaf then 0 else childOf nodes cur bit)).isInternal = true := by
  obtain ⟨-, -, hleaf | ⟨hleaf, internal⟩⟩ := t.child_cases hint bit
  · rw [if_pos hleaf]
    exact (t.root h2).1
  · rw [if_neg (by rw [hleaf]; exact Bool.false_ne_true)]
    exact internal

theorem walkEnd_isInternal (t : LaidTree nodes n) (h2 : 2 ≤ n) (v : Byte) (is : List Nat) {cur : Nat}
    (hint : (nodeAt nodes cur).isInternal = true) : (nodeAt nodes (walkEnd nodes v is cur)).isInternal = true := by
  induction is generalizing cur with
  | nil => exact hint
  | cons i is ih => exact ih (t.step_isInternal h2 hint _)

/-- The walk ends at the root exactly where a symbol ends with the last bit. -/
theorem walkEnd_eq_zero_iff (t : LaidTree nodes n) (h2 : 2 ≤ n) (v : Byte) {is : List Nat} {last cur : Nat} (hlast : last ∉ is)
    (hint : (nodeAt nodes cur).isInternal = true) :
    walkEnd nodes v (is ++ [last]) cur = 0 ↔ last ∈ (walkOutput nodes v (is ++ [last]) cur).map Prod.snd := by
  induction is generalizing cur with
  | nil =>
    obtain ⟨-, notRoot, hleaf | ⟨hleaf, -⟩⟩ := t.child_cases hint (v.getLsbD last)
    · simp [walkEnd, walkOutput, hleaf]
    · simp [walkEnd, walkOutput, hleaf, notRoot]
  | cons i is ih =>
    have hi : last ≠ i := fun h => hlast (h ▸ List.mem_cons_self)
    have rest := ih (fun h => hlast (List.mem_cons_of_mem _ h)) (t.step_isInternal h2 hint (v.getLsbD i))
    rw [List.cons_append, walkEnd, rest]
    by_cases hleaf : (nodeAt nodes (childOf nodes cur (v.getLsbD i))).isLeaf = true <;> simp [walkOutput, hleaf, hi]

end LaidTree

theorem getLsbD_zero_iff (mask : Byte) : mask.getLsbD 0 = true ↔ 0 ∈ setBits mask := by
  simp [setBits]

/-- A slot of a tree in use: its next state is in use, and is 0 exactly where a symbol ends with the byte. -/
theorem slotFn_next {nodes : List TreeNode} {n : Nat} (t : LaidTree nodes n) (h2 : 2 ≤ n) {st : Nat} (hst : st < n - 1) (v : Byte) :
    (slotFn (treeEntries nodes) st v).next < n - 1 ∧
    ((slotFn (treeEntries nodes) st v).next = 0 ↔ (slotFn (treeEntries nodes) st v).mask.getLsbD 0 = true) := by
  obtain ⟨start, -⟩ := t.nodeOfState_spec hst
  have internal := t.walkEnd_isInternal h2 v bitIndices start
  rw [getLsbD_zero_iff, setBits_slotFn, walkOutput_treeEntries, slotFn_treeEntries]
  refine ⟨t.value_lt internal, (t.value_eq_zero_iff h2 internal).trans ?_⟩
  exact t.walkEnd_eq_zero_iff h2 v (is := [7, 6, 5, 4, 3, 2, 1]) (last := 0) (by decide) start

/-- Settles O36: the mask's bits are the ends of the symbols, and the walk stays in the tree. -/
theorem slotCountMaskNext : Obligations.SlotCountMaskNext := by
  intro symbols h2 h12 st hst v e
  obtain ⟨next, zero⟩ := slotFn_next (treeOf_laidTree (by omega) h12) h2 hst v
  exact ⟨(setBits_slotFn_length _ _ _).symm, slotFn_syms_length _ _ _, next, zero⟩

/-- The first bit at a node of two leaves emits a symbol; the rest of the byte is walked from the root. -/
theorem slotFn_of_bothLeaves {nodes : List TreeNode} {st : Nat} {v : Byte}
    (h : (nodeAt nodes (childOf nodes (nodeOfState nodes st) (v.getLsbD 7))).isLeaf = true) :
    slotFn nodes st v =
      { syms := (nodeAt nodes (childOf nodes (nodeOfState nodes st) (v.getLsbD 7))).value ::
          (walkOutput nodes v [6, 5, 4, 3, 2, 1, 0] 0).map Prod.fst
        next := (nodeAt nodes (walkEnd nodes v [6, 5, 4, 3, 2, 1, 0] 0)).value.toNat
        mask := maskOf (7 :: (walkOutput nodes v [6, 5, 4, 3, 2, 1, 0] 0).map Prod.snd) } := by
  rw [slotFn_eq, bitIndices, walkOutput, walkEnd, if_pos h, if_pos h]
  rfl

/-- Settles O37: after the first bit both walks are at the root. -/
theorem bothLeavesTablesCopy : Obligations.BothLeavesTablesCopy := by
  intro nodes x y v hx hy
  rw [slotFn_of_bothLeaves (hx _), slotFn_of_bothLeaves (hy _)]
  rfl

/-! ## TABLE_MEM while PHASE = TABLES -/

theorem readSlot_congr {m m' : Memory} {states st : Nat} {v : Byte}
    (h : m.bytes ((st * 256 + v.toNat) * Config.slotBytes) 11 = m'.bytes ((st * 256 + v.toNat) * Config.slotBytes) 11) :
    readSlot m states st v = readSlot m' states st v := by
  simp only [readSlot, h]

/-- Where TABLE_MEM holds the tables of a tree, every slot in use reads as SLOTFN (43_tables.md R112, 44_decode.md R118). -/
theorem readSlot_of_tableImage {m : Memory} {nodes : List TreeNode} {n : Nat} (t : LaidTree nodes n) (h2 : 2 ≤ n) (h12 : n ≤ 12)
    (image : m.bytes 0 Config.tableBytes = tableImage (treeEntries nodes) (n - 1)) {st : Nat} (hst : st < n - 1) (v : Byte) :
    readSlot m (n - 1) st v = .ok (slotFn (treeEntries nodes) st v) := by
  have hv := v.isLt
  have hs : st < Config.maxStates := by simp only [Config.maxStates]; omega
  rw [← readSlot_put_tableImage m (treeEntries nodes) v hs hst (slotFn_next t h2 hst v).1 (setBits_slotFn_length _ _ _)]
  have len := tableImage_length (treeEntries nodes) (n - 1)
  have inside : (st * 256 + v.toNat) * Config.slotBytes + 11 ≤ Config.tableBytes := by
    simp only [Config.slotBytes, Config.tableBytes, Config.maxStates] at hs ⊢
    omega
  refine readSlot_congr ?_
  rw [Memory.bytes_put_zero _ _ (len ▸ inside), ← image]
  refine List.ext_getElem (by simp; omega) fun k h1 h3 => ?_
  rw [List.getElem_take, List.getElem_drop, Memory.bytes_getElem, Memory.bytes_getElem, Nat.zero_add]

/-- What TREE_DECODE relies on: TREE_MEM and NODE_COUNT are those of the symbol table. -/
structure State.TreeReady (s : State) : Prop where
  atLeastTwo : 2 ≤ s.symbols.length
  atMostTwelve : s.symbols.length ≤ 12
  nodes : s.tree.nodes = treeEntries (treeOf s.symbols)
  nodeCount : s.counts.nodes.toNat = 2 * s.symbols.length - 1

/-- What DECODE relies on: TABLE_MEM and STATE_COUNT are those of the symbol table's tree as well. -/
structure State.TablesReady (s : State) : Prop extends s.TreeReady where
  states : s.counts.states.toNat = s.symbols.length - 1
  slots : ∀ st < s.symbols.length - 1, ∀ v : Byte,
    readSlot s.table (s.symbols.length - 1) st v = .ok (slotFn (treeEntries (treeOf s.symbols)) st v)

theorem State.TreeReady.laidTree {s : State} (h : s.TreeReady) : LaidTree (treeOf s.symbols) s.symbols.length :=
  treeOf_laidTree (by have := h.atLeastTwo; omega) h.atMostTwelve

namespace State.Inv

variable {s : State} (h : s.Inv)

include h

theorem treeReady (hp : s.phaseAtLeast .tree = true) : s.TreeReady where
  atLeastTwo := h.symbols_length ▸ h.two_le_symbolCount (State.phaseAtLeast_mono (by decide) hp)
  atMostTwelve := h.symbols_length ▸ h.symbolCount_le
  nodes := h.tree_nodes hp
  nodeCount := h.symbols_length ▸ h.counts_nodes hp

theorem tablesReady (hp : s.phaseAtLeast .tables = true) : s.TablesReady :=
  have treeBuilt : s.phaseAtLeast .tree = true := State.phaseAtLeast_mono (by decide) hp
  have ready := h.treeReady treeBuilt
  { ready with
    states := h.symbols_length ▸ h.counts_states treeBuilt
    slots := fun _ hst v => readSlot_of_tableImage ready.laidTree ready.atLeastTwo ready.atMostTwelve
      (h.symbols_length ▸ (h.tables hp).image) hst v }

end State.Inv

/-- Settles O48: the invariant says that TABLE_MEM holds the tables, and each slot is read back from them. -/
theorem tablesHoldSlotFunction : Obligations.TablesHoldSlotFunction := by
  intro s hinv hp st hst v
  have ready := hinv.tablesReady ((s.phaseAtLeast_tables_iff).2 hp)
  rw [ready.states] at hst ⊢
  exact ready.slots st hst v

end Machine
end Sys2Proof
end

section
/-! The merge (44_decode.md R124): byte by byte it stands where SEQDECODE stands, and it judges each segment's convergence. -/

namespace Sys2Proof
namespace Machine

section Loop

variable (table : Memory) (states d b : Nat)

/-- The state and the output of SEQDECODE after some bytes, where the D-th symbol is still to come and nothing failed (44_decode.md
R119). -/
def seqPending : List Byte → Nat → Nat → Emitted → Option (Nat × Emitted)
  | [], _, st, m => if m.w < d then some (st, m) else none
  | v :: rest, j, st, m =>
    if m.w < d then
      match readSlot table states st v with
      | .error _ => none
      | .ok e =>
        match emitSlot d b j e m with
        | .error _ => none
        | .ok m' => seqPending rest (j + 1) e.next m'
    else none

/-- The same after the first n bytes of a bitstream. -/
def seqAfter (all : List Byte) (n : Nat) : Option (Nat × Emitted) := seqPending table states d b (all.take n) 0 0 Emitted.start

/-- SEQDECODE's outcome on a bitstream. -/
abbrev seqResult (all : List Byte) : Except Ending (Nat × Emitted) := seqLoop table states d b all 0 0 Emitted.start

/-- The true state after n bytes. -/
abbrev stateAfter (all : List Byte) (n : Nat) : Option Nat := automaton table states 0 (all.take n)

/-- The state speculated from 0 at byte `first`, c bytes on. -/
abbrev speculatedAfter (all : List Byte) (first c : Nat) : Option Nat := automaton table states 0 ((all.drop first).take c)

end Loop

section LoopLaws

variable {table : Memory} {states d b : Nat} {all : List Byte}

theorem seqPending_cons_ok {v : Byte} {rest : List Byte} {j st : Nat} {m m' : Emitted} {e : Slot} (hw : m.w < d)
    (hs : readSlot table states st v = .ok e) (he : emitSlot d b j e m = .ok m') :
    seqPending table states d b (v :: rest) j st m = seqPending table states d b rest (j + 1) e.next m' := by
  simp only [seqPending, if_pos hw, hs, he]

theorem seqPending_of_out {xs : List Byte} {j st : Nat} {m : Emitted} (hw : ¬ m.w < d) : seqPending table states d b xs j st m = none := by
  cases xs <;> simp only [seqPending, if_neg hw]

theorem seqPending_append (xs ys : List Byte) (j st : Nat) (m : Emitted) :
    seqPending table states d b (xs ++ ys) j st m =
      (seqPending table states d b xs j st m).bind fun p => seqPending table states d b ys (j + xs.length) p.1 p.2 := by
  induction xs generalizing j st m with
  | nil =>
    by_cases hw : m.w < d
    · simp [seqPending, hw]
    · simp [seqPending_of_out hw]
  | cons v xs ih =>
    by_cases hw : m.w < d
    · rw [List.cons_append]
      cases hs : readSlot table states st v with
      | error e => simp only [seqPending, if_pos hw, hs, Option.bind_none]
      | ok e =>
        cases he : emitSlot d b j e m with
        | error err => simp only [seqPending, if_pos hw, hs, he, Option.bind_none]
        | ok m' =>
          rw [seqPending_cons_ok hw hs he, seqPending_cons_ok hw hs he, ih, List.length_cons, Nat.add_assoc, Nat.add_comm 1]
    · rw [seqPending_of_out hw, seqPending_of_out hw, Option.bind_none]

/-- Where the output is pending after some bytes, the loop goes on from there, and the automaton is in the same state. -/
theorem seqPending_some {xs : List Byte} {j st : Nat} {m : Emitted} {st' : Nat} {m' : Emitted}
    (h : seqPending table states d b xs j st m = some (st', m')) :
    m'.w < d ∧ automaton table states st xs = some st' ∧
    ∀ ys, seqLoop table states d b (xs ++ ys) j st m = seqLoop table states d b ys (j + xs.length) st' m' := by
  induction xs generalizing j st m with
  | nil =>
    by_cases hw : m.w < d
    · rw [seqPending, if_pos hw] at h
      obtain ⟨rfl, rfl⟩ := Prod.mk.inj (Option.some.inj h)
      exact ⟨hw, rfl, fun _ => rfl⟩
    · rw [seqPending_of_out hw] at h
      cases h
  | cons v xs ih =>
    by_cases hw : m.w < d
    · cases hs : readSlot table states st v with
      | error e => simp only [seqPending, if_pos hw, hs, reduceCtorEq] at h
      | ok e =>
        cases he : emitSlot d b j e m with
        | error err => simp only [seqPending, if_pos hw, hs, he, reduceCtorEq] at h
        | ok out =>
          rw [seqPending_cons_ok hw hs he] at h
          obtain ⟨hw', state, loop⟩ := ih h
          refine ⟨hw', (automaton_cons_ok hs xs).trans state, fun ys => ?_⟩
          simp only [List.cons_append, seqLoop, if_pos hw, hs, he, loop, List.length_cons, Nat.add_assoc, Nat.add_comm 1]
    · rw [seqPending_of_out hw] at h
      cases h

/-- Emission from byte j can fail only where B is below the byte's end. -/
theorem emitSymbols_error {j : Nat} {xs : List (Byte × Nat)} {m : Emitted} {e : Ending} (hxs : ∀ x ∈ xs, x.2 ≤ 8)
    (h : emitSymbols d b j xs m = .error e) : b < 8 * (j + 1) := by
  induction xs generalizing m with
  | nil => cases h
  | cons x xs ih =>
    have hx := hxs x List.mem_cons_self
    simp only [emitSymbols] at h
    split at h
    · cases h
    · split at h
      · omega
      · exact ih (fun y hy => hxs y (List.mem_cons_of_mem _ hy)) h

theorem emitSlot_error {j : Nat} {e : Slot} {m : Emitted} {err : Ending} (h : emitSlot d b j e m = .error err) : b < 8 * (j + 1) := by
  refine emitSymbols_error (fun x hx => ?_) h
  obtain ⟨i, -, hi⟩ := List.mem_map.1 (List.of_mem_zip hx).2
  exact hi ▸ Nat.sub_le 8 i

/-- Where the bytes lie before bit B, E_LENGTH means that the output is still pending after them. -/
theorem seqPending_isSome {xs : List Byte} {j st w : Nat} {m : Emitted} (hb : 8 * (j + xs.length) ≤ b)
    (h : seqLoop table states d b xs j st m = .error (lengthEnding w)) :
    (seqPending table states d b xs j st m).isSome = true := by
  induction xs generalizing j st m with
  | nil =>
    by_cases hw : m.w < d
    · simp [seqPending, hw]
    · simp [seqLoop, hw] at h
  | cons v xs ih =>
    rw [List.length_cons] at hb
    simp only [seqLoop] at h
    split at h
    · rename_i hw
      split at h
      · rename_i e hs
        cases h
        exact absurd (congrArg Ending.code (readSlot_error hs)) (by simp [lengthEnding])
      · rename_i e hs
        split at h
        · rename_i err he
          have := emitSlot_error he
          omega
        · rename_i out he
          rw [seqPending_cons_ok hw hs he]
          exact ih (by omega) h
    · cases h

theorem seqAfter_zero : seqAfter table states d b all 0 = if 0 < d then some (0, Emitted.start) else none := rfl

/-- One byte more. -/
theorem seqAfter_succ {n : Nat} {v : Byte} (hv : all[n]? = some v) :
    seqAfter table states d b all (n + 1) =
      (seqAfter table states d b all n).bind fun p => seqPending table states d b [v] n p.1 p.2 := by
  obtain ⟨hn, -⟩ := List.getElem?_eq_some_iff.1 hv
  rw [seqAfter, List.take_add_one, hv, Option.toList_some, seqPending_append, Nat.zero_add, List.length_take_of_le hn.le]
  rfl

theorem seqAfter_some {n st : Nat} {m : Emitted} (hn : n ≤ all.length) (h : seqAfter table states d b all n = some (st, m)) :
    m.w < d ∧ stateAfter table states all n = some st ∧
    seqResult table states d b all = seqLoop table states d b (all.drop n) n st m := by
  obtain ⟨hw, state, loop⟩ := seqPending_some h
  refine ⟨hw, state, ?_⟩
  have := loop (all.drop n)
  rwa [List.take_append_drop, Nat.zero_add, List.length_take_of_le hn] at this

/-- What has been output stays output. -/
theorem seqAfter_isSome_of_le {n k : Nat} (hnk : n ≤ k) (h : (seqAfter table states d b all k).isSome = true) :
    (seqAfter table states d b all n).isSome = true := by
  obtain ⟨c, rfl⟩ := Nat.exists_eq_add_of_le hnk
  rw [seqAfter, List.take_add, seqPending_append] at h
  rw [seqAfter]
  cases hs : seqPending table states d b (all.take n) 0 0 Emitted.start with
  | none => simp [hs] at h
  | some p => rfl

theorem stateAfter_add {first c st : Nat} (h : stateAfter table states all first = some st) :
    stateAfter table states all (first + c) = automaton table states st ((all.drop first).take c) := by
  rw [stateAfter, List.take_add, automaton_append]
  simp only [stateAfter] at h
  rw [h, Option.bind_some]

theorem speculatedAfter_succ {first c σ : Nat} {v : Byte} {e : Slot} (hv : all[first + c]? = some v)
    (h : speculatedAfter table states all first c = some σ) (hs : readSlot table states σ v = .ok e) :
    speculatedAfter table states all first (c + 1) = some e.next := by
  have next : (all.drop first)[c]? = some v := by rw [List.getElem?_drop, hv]
  simp only [speculatedAfter] at h ⊢
  rw [List.take_add_one, next, Option.toList_some, automaton_append, h, Option.bind_some, automaton_cons_ok hs, automaton_nil]

end LoopLaws

/-! ## One byte of the merge -/

/-- What a byte does to a merge that has not stopped: in mode SPEC the channel's slot is the true state's, so in both modes it is the
byte's slot in the true state that decides. -/
theorem Merger.byte_cases {table : Memory} {states d b limit j : Nat} {m : Merger} {v : Byte} {specE : Slot} (specS : Nat)
    (hrun : m.stopped = false) (hspec : m.spec = true → readSlot table states m.st v = .ok specE) :
    (∃ e, readSlot table states m.st v = .error e ∧
      m.byte table states d b limit j v specE specS = { m with raised := some e }) ∨
    (∃ e err k, readSlot table states m.st v = .ok e ∧ emitSlot d b j e m.emitted = .error err ∧
      m.byte table states d b limit j v specE specS = { m with k := k, raised := some err }) ∨
    (∃ e out, readSlot table states m.st v = .ok e ∧ emitSlot d b j e m.emitted = .ok out ∧
      ((out.w = d ∧ ∃ k, m.byte table states d b limit j v specE specS =
          { m with k := k, emitted := out, st := e.next, done := true, fin := e.next }) ∨
       (out.w ≠ d ∧ m.spec = true ∧ e = specE ∧ m.byte table states d b limit j v specE specS =
          { m with emitted := out, st := e.next }) ∨
       (out.w ≠ d ∧ m.spec = false ∧ m.byte table states d b limit j v specE specS =
          ({ m with k := m.k + 1, emitted := out, st := e.next } : Merger).compare limit specS))) := by
  have slot : (if m.spec then .ok specE else readSlot table states m.st v : Except Ending Slot) = readSlot table states m.st v := by
    split
    · rename_i h
      exact (hspec h).symm
    · rfl
  have run : ¬ m.stopped = true := by simp [hrun]
  simp only [Merger.byte, if_neg run, slot]
  cases hs : readSlot table states m.st v with
  | error e => exact .inl ⟨e, rfl, rfl⟩
  | ok e =>
    cases he : emitSlot d b j e m.emitted with
    | error err => exact .inr (.inl ⟨e, err, if m.spec then m.k else m.k + 1, rfl, he, by simp only [he]⟩)
    | ok out =>
      refine .inr (.inr ⟨e, out, rfl, he, ?_⟩)
      by_cases hw : out.w = d
      · exact .inl ⟨hw, _, by simp only [he, if_pos hw]; rfl⟩
      · cases hm : m.spec with
        | true =>
          have same : e = specE := by
            have := hspec hm
            rw [hs] at this
            exact Except.ok.inj this
          exact .inr (.inl ⟨hw, rfl, same, by simp [he, hw]⟩)
        | false => exact .inr (.inr ⟨hw, rfl, by simp [he, hw]⟩)

theorem Merger.compare_same (m : Merger) (limit specS : Nat) :
    (m.compare limit specS).st = m.st ∧ (m.compare limit specS).emitted = m.emitted ∧ (m.compare limit specS).done = m.done ∧
    (m.compare limit specS).raised = m.raised ∧ (m.compare limit specS).seg = m.seg ∧ (m.compare limit specS).k = m.k := by
  unfold Merger.compare
  split
  · exact ⟨rfl, rfl, rfl, rfl, rfl, rfl⟩
  · split <;> exact ⟨rfl, rfl, rfl, rfl, rfl, rfl⟩

/-! ## Where the merge stands -/

/-- After n bytes of the bitstream the merge stands where SEQDECODE stands, or it has stopped with SEQDECODE's outcome. -/
structure Merger.At (table : Memory) (states d b : Nat) (all : List Byte) (n : Nat) (m : Merger) : Prop where
  fits : m.Fits d b
  running : m.stopped = false → seqAfter table states d b all n = some (m.st, m.emitted)
  done : m.done = true → seqResult table states d b all = .ok (m.fin, m.emitted)
  raised : ∀ e, m.raised = some e → seqResult table states d b all = .error e
  ended : m.stopped = true → seqAfter table states d b all n = none

/-- Emission never outputs more than D symbols. -/
theorem emitted_w_le {d b j : Nat} {m : Merger} (hm : m.Fits d b) {e : Slot} {out : Emitted}
    (he : emitSlot d b j e m.emitted = .ok out) : out.w ≤ d := by
  rcases emitSlot_cases (j := j) (e := e) hm.emitted with ⟨m', he', fits⟩ | ⟨w, he'⟩ <;> rw [he] at he'
  · exact Except.ok.inj he' ▸ fits.count
  · cases he'

namespace Merger.At

variable {table : Memory} {states d b : Nat} {all : List Byte} {n : Nat} {m : Merger}

/-- A merge that goes on. -/
theorem of_running (fits : m.Fits d b) (hdone : m.done = false) (hraised : m.raised = none)
    (now : seqAfter table states d b all n = some (m.st, m.emitted)) : m.At table states d b all n := by
  refine ⟨fits, fun _ => now, fun h => ?_, fun e h => ?_, fun h => ?_⟩
  · rw [hdone] at h
    cases h
  · rw [hraised] at h
    cases h
  · simp [Merger.stopped, hdone, hraised] at h

/-- A merge that has just raised an error. -/
theorem of_raised {e : Ending} (fits : m.Fits d b) (hdone : m.done = false) (hraised : m.raised = some e)
    (result : seqResult table states d b all = .error e) (ended : seqAfter table states d b all n = none) :
    m.At table states d b all n := by
  refine ⟨fits, fun h => ?_, fun h => ?_, fun e' h => ?_, fun _ => ended⟩
  · simp [Merger.stopped, hraised] at h
  · rw [hdone] at h
    cases h
  · exact result.trans (congrArg _ (Option.some.inj (hraised.symm.trans h)))

/-- A merge that has just finished. -/
theorem of_done (fits : m.Fits d b) (hdone : m.done = true) (hraised : m.raised = none)
    (result : seqResult table states d b all = .ok (m.fin, m.emitted)) (ended : seqAfter table states d b all n = none) :
    m.At table states d b all n := by
  refine ⟨fits, fun h => ?_, fun _ => result, fun e h => ?_, fun _ => ended⟩
  · simp [Merger.stopped, hdone] at h
  · rw [hraised] at h
    cases h

theorem start : (Merger.start d).At table states d b all 0 := by
  refine ⟨Merger.start_fits d b, fun h => ?_, fun h => ?_, nofun, fun h => ?_⟩
  · have hd : ¬ d = 0 := by simpa [Merger.stopped, Merger.start] using h
    rw [seqAfter_zero, if_pos (Nat.pos_of_ne_zero hd)]
    rfl
  · obtain rfl : d = 0 := by simpa [Merger.start] using h
    cases all <;> rfl
  · obtain rfl : d = 0 := by simpa [Merger.stopped, Merger.start] using h
    rfl

theorem enter (h : m.At table states d b all n) (i : Nat) : (m.enter i).At table states d b all n := by
  have fits := Merger.enter_fits h.fits i
  unfold Merger.enter at fits ⊢
  split at fits
  · rename_i hstop
    rw [if_pos hstop]
    exact h
  · rename_i hstop
    rw [if_neg hstop]
    split at fits
    · rename_i hst
      rw [if_pos hst]
      exact ⟨fits, h.running, h.done, h.raised, h.ended⟩
    · rename_i hst
      rw [if_neg hst]
      exact ⟨fits, h.running, h.done, h.raised, h.ended⟩

/-- The next byte. -/
theorem byte (h : m.At table states d b all n) {v : Byte} (hv : all[n]? = some v) {specE : Slot} (specS limit : Nat)
    (hspec : m.stopped = false → m.spec = true → readSlot table states m.st v = .ok specE) :
    (m.byte table states d b limit n v specE specS).At table states d b all (n + 1) := by
  have fits := Merger.byte_fits h.fits table states limit n v specE specS
  have after := seqAfter_succ (table := table) (states := states) (d := d) (b := b) hv
  cases hrun : m.stopped with
  | true =>
    rw [Merger.byte_of_stopped hrun] at fits ⊢
    refine ⟨fits, fun hr => absurd (hr.symm.trans hrun) Bool.false_ne_true, h.done, h.raised, fun _ => ?_⟩
    rw [after, h.ended hrun, Option.bind_none]
  | false =>
    have now := h.running hrun
    rw [now, Option.bind_some] at after
    obtain ⟨hn, hvn⟩ := List.getElem?_eq_some_iff.1 hv
    obtain ⟨hw, -, loop⟩ := seqAfter_some hn.le now
    rw [List.drop_eq_getElem_cons hn, hvn] at loop
    obtain ⟨notDone, notRaised⟩ : m.done = false ∧ m.raised = none := by simpa [Merger.stopped] using hrun
    rcases Merger.byte_cases (d := d) (b := b) (limit := limit) (j := n) specS hrun (hspec hrun) with
      ⟨e, hs, eq⟩ | ⟨e, err, k, hs, he, eq⟩ | ⟨e, out, hs, he, ⟨hd, k, eq⟩ | next⟩
    · rw [eq] at fits ⊢
      simp only [seqPending, if_pos hw, hs] at after
      simp only [seqLoop, if_pos hw, hs] at loop
      exact of_raised fits notDone rfl loop after
    · rw [eq] at fits ⊢
      simp only [seqPending, if_pos hw, hs, he] at after
      simp only [seqLoop, if_pos hw, hs, he] at loop
      exact of_raised fits notDone rfl loop after
    · rw [eq] at fits ⊢
      have out_w : ¬ out.w < d := by omega
      simp only [seqPending, if_pos hw, hs, he, if_neg out_w] at after
      simp only [seqLoop, if_pos hw, hs, he] at loop
      refine of_done fits rfl notRaised (loop.trans ?_) after
      cases all.drop (n + 1) <;> simp only [seqLoop, if_neg out_w]
    · have count := emitted_w_le h.fits he
      have after' : out.w ≠ d → seqAfter table states d b all (n + 1) = some (e.next, out) := fun hd => by
        simpa only [seqPending, if_pos hw, hs, he, if_pos (show out.w < d by omega)] using after
      rcases next with ⟨hd, -, -, eq⟩ | ⟨hd, -, eq⟩
      · rw [eq] at fits ⊢
        exact of_running fits notDone notRaised (after' hd)
      · obtain ⟨hst, hout, hdone, hraised, -, -⟩ :=
          ({ m with k := m.k + 1, emitted := out, st := e.next } : Merger).compare_same limit specS
        rw [eq] at fits ⊢
        exact of_running fits (hdone.trans notDone) (hraised.trans notRaised) (by rw [hst, hout]; exact after' hd)

end Merger.At
end Machine
end Sys2Proof
end

section
/-! CH_CONV (10_state.md §3, 44_decode.md R124) and the equivalence of DECODE with SEQDECODE (44_decode.md §3). -/

namespace Sys2Proof
namespace Machine

/-! ## What a segment's entry says -/

section Entry

variable (table : Memory) (states d b : Nat) (all : List Byte) (limit first : Nat)

/-- c bytes into the segment the true state and the speculated one agree. -/
def Agree (c : Nat) : Prop := stateAfter table states all (first + c) = speculatedAfter table states all first c

/-- The entry v of a segment that starts at byte `first` says what c bytes of it show. -/
structure Judged (c : Nat) (v : Word) : Prop where
  entered : v ≠ convSkipped
  zero : v = 0 ↔ stateAfter table states all first = some 0
  count : v ≠ convNone → v.toNat ≤ c ∧ (limit ≠ 0 → v.toNat ≤ limit) ∧ Agree table states all first v.toNat ∧
    ∀ c', 0 < c' → c' < v.toNat → ¬ Agree table states all first c'
  never : v = convNone → ∀ c', 0 < c' → c' ≤ c → (limit = 0 ∨ c' ≤ limit) →
    (seqAfter table states d b all (first + c')).isSome = true → ¬ Agree table states all first c'

theorem speculatedAfter_zero : speculatedAfter table states all first 0 = some 0 := rfl

end Entry

namespace Judged

variable {table : Memory} {states d b : Nat} {all : List Byte} {limit first c : Nat} {v : Word}

/-- A count keeps saying so. -/
theorem succ_of_ne_none (h : Judged table states d b all limit first c v) (hv : v ≠ convNone) :
    Judged table states d b all limit first (c + 1) v := by
  obtain ⟨le, rest⟩ := h.count hv
  exact ⟨h.entered, h.zero, fun _ => ⟨Nat.le_succ_of_le le, rest⟩, fun hn => absurd hn hv⟩

/-- NONE says nothing about one byte more unless the byte is compared. -/
theorem succ_of_none (h : Judged table states d b all limit first c v) (hv : v = convNone)
    (next : limit = 0 ∨ c + 1 ≤ limit → (seqAfter table states d b all (first + (c + 1))).isSome = true →
      ¬ Agree table states all first (c + 1)) : Judged table states d b all limit first (c + 1) v := by
  refine ⟨h.entered, h.zero, fun hn => absurd hv hn, fun _ c' hpos hle hlimit hsome => ?_⟩
  rcases Nat.le_succ_iff.1 hle with hle | rfl
  · exact h.never hv c' hpos hle hlimit hsome
  · exact next hlimit hsome

theorem succ_of_ended (h : Judged table states d b all limit first c v) (ended : seqAfter table states d b all (first + (c + 1)) = none) :
    Judged table states d b all limit first (c + 1) v := by
  by_cases hv : v = convNone
  · exact h.succ_of_none hv fun _ hsome => by simp [ended] at hsome
  · exact h.succ_of_ne_none hv

/-- Where NONE's comparing finds the states equal, the number of bytes becomes the entry. -/
theorem converge (h : Judged table states d b all limit first c v) (hv : v = convNone) (small : c + 1 < 2 ^ 31)
    (hlimit : limit = 0 ∨ c + 1 ≤ limit) (hsome : (seqAfter table states d b all (first + c)).isSome = true)
    (agree : Agree table states all first (c + 1)) :
    Judged table states d b all limit first (c + 1) (BitVec.ofNat 32 (c + 1)) := by
  have toNat : (BitVec.ofNat 32 (c + 1)).toNat = c + 1 := by
    rw [BitVec.toNat_ofNat]
    exact Nat.mod_eq_of_lt (by omega)
  have ne : ∀ w : Word, w.toNat = 0 ∨ 2 ^ 31 ≤ w.toNat → BitVec.ofNat 32 (c + 1) ≠ w := fun w hw e => by
    rw [← e, toNat] at hw
    omega
  refine ⟨ne _ (.inr (by decide)), ⟨fun e => absurd e (ne 0 (.inl rfl)), fun e => ?_⟩, fun _ => ?_,
    fun e => absurd e (ne _ (.inr (by decide)))⟩
  · have := h.zero.2 e
    rw [hv] at this
    exact absurd this (by decide)
  · rw [toNat]
    refine ⟨le_rfl, fun hl => hlimit.resolve_left hl, agree, fun c' hpos hlt => ?_⟩
    exact h.never hv c' hpos (by omega) (hlimit.imp_right fun hle => by omega) (seqAfter_isSome_of_le (by omega) hsome)

end Judged

/-! ## The merge inside a segment -/

/-- c bytes into segment i a merge that has not stopped follows the speculated state (mode SPEC), or has found no agreement yet and
compares while the limit lets it (mode CONT). -/
structure Merger.Inside (table : Memory) (states : Nat) (all : List Byte) (limit i first c : Nat) (m : Merger) : Prop where
  seg : m.seg = i
  spec : m.spec = true → speculatedAfter table states all first c = some m.st ∧ ∀ hi : i < 15, m.conv[i] ≠ convNone
  cont : m.spec = false → (∀ hi : i < 15, m.conv[i] = convNone) ∧ m.k = c ∧ (m.cmp = true ↔ limit = 0 ∨ c < limit)

/-- What the merge shows c bytes into segment i. -/
structure Merger.Reads (table : Memory) (states d b : Nat) (all : List Byte) (limit i first c : Nat) (m : Merger) : Prop where
  position : m.At table states d b all (first + c)
  inside : m.stopped = false → m.Inside table states all limit i first c
  judged : ∀ hi : i < 15, Judged table states d b all limit first c m.conv[i]

/-- The entries of the other segments stay. -/
def Merger.SameEntriesBut (i : Nat) (m m' : Merger) : Prop := ∀ (x : Nat) (hx : x < 15), x ≠ i → m'.conv[x] = m.conv[x]

theorem Merger.sameEntriesBut_setIfInBounds {m m' : Merger} {i : Nat} {v : Word} (h : m'.conv = m.conv.setIfInBounds i v) :
    m.SameEntriesBut i m' := fun x hx hne => by
  simp only [h, Vector.getElem_setIfInBounds]
  rw [if_neg (Ne.symm hne)]

theorem Merger.sameEntriesBut_of_conv_eq {m m' : Merger} (i : Nat) (h : m'.conv = m.conv) : m.SameEntriesBut i m' :=
  fun x hx _ => by simp only [h]

namespace Merger

variable {table : Memory} {states d b : Nat} {all : List Byte} {limit i first c : Nat} {m : Merger}

/-- Entering a segment. -/
theorem At.reads_enter (h : m.At table states d b all first) (hrun : m.stopped = false) (hle : first ≤ all.length) (i limit : Nat) :
    (m.enter i).Reads table states d b all limit i first 0 := by
  obtain ⟨-, state, -⟩ := seqAfter_some hle (h.running hrun)
  have run : ¬ m.stopped = true := by simp [hrun]
  have position := h.enter i
  refine ⟨position, fun _ => ?_, fun hi => ?_⟩
  · by_cases hst : m.st = 0
    · simp only [Merger.enter, if_neg run, if_pos hst]
      refine ⟨rfl, fun _ => ⟨hst ▸ speculatedAfter_zero table states all first, fun hi => ?_⟩, fun h => absurd h (by simp)⟩
      simp only [Vector.getElem_setIfInBounds_self]
      decide
    · simp only [Merger.enter, if_neg run, if_neg hst]
      refine ⟨rfl, fun h => absurd h (by simp), fun _ => ⟨fun hi => by simp only [Vector.getElem_setIfInBounds_self], rfl, ?_⟩⟩
      simp only [true_iff]
      omega
  · by_cases hst : m.st = 0
    · simp only [Merger.enter, if_neg run, if_pos hst, Vector.getElem_setIfInBounds_self]
      rw [hst] at state
      refine ⟨by decide, ⟨fun _ => state, fun _ => rfl⟩, fun _ => ⟨le_rfl, fun _ => Nat.zero_le _, ?_, ?_⟩, fun h => absurd h (by decide)⟩
      · exact state.trans (speculatedAfter_zero table states all first).symm
      · exact fun c' _ hlt => absurd hlt (Nat.not_lt_zero c')
    · simp only [Merger.enter, if_neg run, if_neg hst, Vector.getElem_setIfInBounds_self]
      refine ⟨by decide, ⟨fun h => absurd h (by decide), fun h => ?_⟩, fun h => absurd rfl h, fun _ c' hpos hle => ?_⟩
      · exact absurd (Option.some.inj (state.symm.trans h)) hst
      · omega

theorem enter_sameEntriesBut (m : Merger) (i : Nat) : m.SameEntriesBut i (m.enter i) := by
  unfold Merger.enter
  split
  · exact sameEntriesBut_of_conv_eq i rfl
  · split <;> exact sameEntriesBut_setIfInBounds rfl

theorem compare_cases (m : Merger) (limit specS : Nat) :
    ((m.cmp = true ∧ m.st = specS) ∧
      m.compare limit specS = { m with conv := m.conv.setIfInBounds m.seg (BitVec.ofNat 32 m.k), spec := true }) ∨
    (¬ (m.cmp = true ∧ m.st = specS) ∧ (limit ≠ 0 ∧ m.k = limit) ∧ m.compare limit specS = { m with cmp := false }) ∨
    (¬ (m.cmp = true ∧ m.st = specS) ∧ ¬ (limit ≠ 0 ∧ m.k = limit) ∧ m.compare limit specS = m) := by
  unfold Merger.compare
  split
  · exact .inl ⟨‹_›, rfl⟩
  · split
    · exact .inr (.inl ⟨‹_›, ‹_›, rfl⟩)
    · exact .inr (.inr ⟨‹_›, ‹_›, rfl⟩)

/-- The compare after a byte in mode CONT: `m` is the merge with the byte's output and state. -/
theorem reads_compare {specS : Nat} (hpos : (m.compare limit specS).At table states d b all (first + (c + 1)))
    (hseg : m.seg = i) (hspec : m.spec = false) (hk : m.k = c + 1)
    (hcmp : m.cmp = true ↔ limit = 0 ∨ c < limit) (hnone : ∀ hi : i < 15, m.conv[i] = convNone)
    (small : c + 1 < 2 ^ 31) (hbefore : (seqAfter table states d b all (first + c)).isSome = true)
    (htrue : stateAfter table states all (first + (c + 1)) = some m.st)
    (hspeculated : speculatedAfter table states all first (c + 1) = some specS)
    (hjudged : ∀ hi : i < 15, Judged table states d b all limit first c m.conv[i]) :
    (m.compare limit specS).Reads table states d b all limit i first (c + 1) ∧ m.SameEntriesBut i (m.compare limit specS) := by
  have agree : Agree table states all first (c + 1) ↔ m.st = specS := by
    rw [Agree, htrue, hspeculated, Option.some.injEq]
  have noAgree : ¬ (m.cmp = true ∧ m.st = specS) → limit = 0 ∨ c + 1 ≤ limit → ¬ Agree table states all first (c + 1) :=
    fun hneg hlimit ha => hneg ⟨hcmp.2 (by omega), agree.1 ha⟩
  rcases m.compare_cases limit specS with ⟨⟨hc, hst⟩, eq⟩ | ⟨hneg, hstop, eq⟩ | ⟨hneg, hgo, eq⟩
  · rw [eq] at hpos ⊢
    have hlimit : limit = 0 ∨ c + 1 ≤ limit := by have := hcmp.1 hc; omega
    refine ⟨⟨hpos, fun _ => ⟨hseg, fun _ => ⟨hst ▸ hspeculated, fun hi => ?_⟩, fun h => absurd h (by simp)⟩, fun hi => ?_⟩, ?_⟩
    · simp only [hseg, Vector.getElem_setIfInBounds_self, hk]
      intro e
      have := congrArg BitVec.toNat e
      rw [BitVec.toNat_ofNat, Nat.mod_eq_of_lt (by omega)] at this
      simp only [convNone, BitVec.reduceToNat] at this
      omega
    · simp only [hseg, Vector.getElem_setIfInBounds_self, hk]
      exact (hjudged hi).converge (hnone hi) small hlimit hbefore (agree.2 hst)
    · exact hseg ▸ sameEntriesBut_setIfInBounds rfl
  · rw [eq] at hpos ⊢
    refine ⟨⟨hpos, fun _ => ⟨hseg, fun h => absurd (hspec.symm.trans h) (by simp), fun _ => ⟨hnone, hk, ?_⟩⟩, fun hi => ?_⟩, ?_⟩
    · simp only [Bool.false_eq_true, false_iff]
      omega
    · exact (hjudged hi).succ_of_none (hnone hi) fun hlimit _ => noAgree hneg hlimit
    · exact sameEntriesBut_of_conv_eq i rfl
  · rw [eq] at hpos ⊢
    refine ⟨⟨hpos, fun _ => ⟨hseg, fun h => absurd (hspec.symm.trans h) (by simp), fun _ => ⟨hnone, hk, ?_⟩⟩, fun hi => ?_⟩, ?_⟩
    · rw [hcmp]
      omega
    · exact (hjudged hi).succ_of_none (hnone hi) fun hlimit _ => noAgree hneg hlimit
    · exact sameEntriesBut_of_conv_eq i rfl

/-- One byte of a segment. -/
theorem Reads.byte (h : m.Reads table states d b all limit i first c) {v : Byte} (hv : all[first + c]? = some v)
    (small : all.length < 2 ^ 31) {σ : Nat} {specE : Slot} (hσ : speculatedAfter table states all first c = some σ)
    (hs : readSlot table states σ v = .ok specE) :
    (m.byte table states d b limit (first + c) v specE specE.next).Reads table states d b all limit i first (c + 1) ∧
    m.SameEntriesBut i (m.byte table states d b limit (first + c) v specE specE.next) := by
  have slot : m.stopped = false → m.spec = true → readSlot table states m.st v = .ok specE := fun hrun hspec => by
    rw [← Option.some.inj (hσ.symm.trans ((h.inside hrun).spec hspec).1), hs]
  have position := h.position.byte hv specE.next limit slot
  have speculated := speculatedAfter_succ hv hσ hs
  obtain ⟨hlt, -⟩ := List.getElem?_eq_some_iff.1 hv
  have ended : (m.byte table states d b limit (first + c) v specE specE.next).stopped = true →
      (m.byte table states d b limit (first + c) v specE specE.next).conv = m.conv →
      (m.byte table states d b limit (first + c) v specE specE.next).Reads table states d b all limit i first (c + 1) ∧
      m.SameEntriesBut i (m.byte table states d b limit (first + c) v specE specE.next) := fun hstop hconv => by
    refine ⟨⟨position, fun hr => absurd (hr.symm.trans hstop) Bool.false_ne_true, fun hi => ?_⟩, sameEntriesBut_of_conv_eq i hconv⟩
    simp only [hconv]
    exact (h.judged hi).succ_of_ended (position.ended hstop)
  cases hrun : m.stopped with
  | true =>
    have same := Merger.byte_of_stopped hrun table states d b limit (first + c) v specE specE.next
    exact ended (by rw [same, hrun]) (by rw [same])
  | false =>
    have inside := h.inside hrun
    rcases Merger.byte_cases (d := d) (b := b) (limit := limit) (j := first + c) specE.next hrun (slot hrun) with
      ⟨e, -, eq⟩ | ⟨e, err, k, -, -, eq⟩ | ⟨e, out, hslot, -, ⟨-, k, eq⟩ | ⟨-, hspec, rfl, eq⟩ | ⟨hd, hspec, eq⟩⟩
    · exact ended (by rw [eq]; simp [Merger.stopped]) (by rw [eq])
    · exact ended (by rw [eq]; simp [Merger.stopped]) (by rw [eq])
    · exact ended (by rw [eq]; simp [Merger.stopped]) (by rw [eq])
    · obtain ⟨-, notNone⟩ := inside.spec hspec
      rw [eq] at position ⊢
      refine ⟨⟨position, fun _ => ⟨inside.seg, fun _ => ⟨speculated, notNone⟩, fun h => absurd (hspec.symm.trans h) (by simp)⟩,
        fun hi => (h.judged hi).succ_of_ne_none (notNone hi)⟩, sameEntriesBut_of_conv_eq i rfl⟩
    · obtain ⟨hnone, hk, hcmp⟩ := inside.cont hspec
      have now := h.position.running hrun
      obtain ⟨-, state, -⟩ := seqAfter_some hlt.le now
      have next : stateAfter table states all (first + c + 1) = some e.next := by
        rw [stateAfter_add state, List.take_one, List.head?_drop, hv]
        exact (automaton_cons_ok hslot []).trans (automaton_nil _ _ _)
      rw [eq] at position ⊢
      exact reads_compare (m := { m with k := m.k + 1, emitted := out, st := e.next }) position inside.seg hspec
        (congrArg (· + 1) hk) hcmp hnone (by omega) (by rw [now]; rfl) next speculated h.judged

/-- The rest of a segment, with what its channel unit stored. -/
theorem Reads.segment (h : m.Reads table states d b all limit i first c) (small : all.length < 2 ^ 31) {vs : List Byte}
    (hvs : vs <+: all.drop (first + c)) {σ : Nat} (hσ : speculatedAfter table states all first c = some σ) {ch : Channel}
    (hch : channelRun table states vs σ = .ok ch) :
    (Merger.segment table states d b limit m (first + c) vs ch.specE ch.specS).Reads table states d b all limit i first
      (c + vs.length) ∧
    m.SameEntriesBut i (Merger.segment table states d b limit m (first + c) vs ch.specE ch.specS) := by
  induction vs generalizing m c σ ch with
  | nil => exact ⟨h, sameEntriesBut_of_conv_eq i rfl⟩
  | cons v vs ih =>
    obtain ⟨rest, hrest⟩ := hvs
    have hv : all[first + c]? = some v := by
      rw [← List.head?_drop, ← hrest]
      rfl
    have tail : vs <+: all.drop (first + (c + 1)) := ⟨rest, by
      rw [← Nat.add_assoc, ← List.tail_drop, ← hrest]
      rfl⟩
    simp only [channelRun] at hch
    cases hs : readSlot table states σ v with
    | error e => simp [hs] at hch
    | ok e =>
      cases hch' : channelRun table states vs e.next with
      | error e => simp [hs, hch'] at hch
      | ok ch' =>
        simp only [hs, hch', Except.ok.injEq] at hch
        subst hch
        obtain ⟨reads, same⟩ := h.byte hv small hσ hs
        obtain ⟨reads', same'⟩ := ih reads tail (speculatedAfter_succ hv hσ hs) hch'
        simp only [Merger.segment, Nat.add_assoc, List.length_cons] at reads' same' ⊢
        rw [Nat.add_comm vs.length 1]
        exact ⟨reads', fun x hx hne => (same' x hx hne).trans (same x hx hne)⟩

end Merger
end Machine
end Sys2Proof
end

section
/-! DECODE from segment to segment: CH_CONV's entries (10_state.md §3) and the outcome of SEQDECODE (44_decode.md §3). -/

namespace Sys2Proof
namespace Machine

theorem segStart_mono (l k : Nat) {i i' : Nat} (h : i ≤ i') : segStart l k i ≤ segStart l k i' :=
  Nat.div_le_div_right (Nat.mul_le_mul_right l h)

theorem segStart_le (l : Nat) {k i : Nat} (hk : 0 < k) (hi : i ≤ k) : segStart l k i ≤ l :=
  (segStart_mono l k hi).trans (segStart_count l hk).le

/-- A segment that is not empty starts before the bitstream's end. -/
theorem segStart_lt {l k i : Nat} (hl : 0 < l) (hi : i < k) : segStart l k i < l := by
  rw [segStart, Nat.div_lt_iff_lt_mul (by omega)]
  rw [Nat.mul_comm l k]
  exact Nat.mul_lt_mul_of_pos_right hi hl

theorem segmentOf_length (stream : List Byte) {k i : Nat} (hi : i < k) :
    (segmentOf stream k i).length = segStart stream.length k (i + 1) - segStart stream.length k i := by
  have le := segStart_le stream.length (show 0 < k by omega) (show i + 1 ≤ k by omega)
  rw [segmentOf, List.length_take_of_le]
  rw [List.length_drop]
  omega

/-! ## The entries -/

section Entries

variable (table : Memory) (states d b : Nat) (all : List Byte) (limit k : Nat)

/-- Entry i of CH_CONV: SKIPPED where the segment is not entered, else what the segment shows. -/
structure EntryOf (i : Nat) (v : Word) : Prop where
  judged : i < k → (seqAfter table states d b all (segStart all.length k i)).isSome = true →
    Judged table states d b all limit (segStart all.length k i)
      (segStart all.length k (i + 1) - segStart all.length k i) v
  skipped : ¬ (i < k ∧ (seqAfter table states d b all (segStart all.length k i)).isSome = true) → v = convSkipped

end Entries

namespace Merger

variable {table : Memory} {states d b : Nat} {all : List Byte} {limit k i : Nat} {m : Merger}

/-- A merge that has stopped stands still. -/
theorem At.of_stopped {n n' : Nat} (h : m.At table states d b all n) (hstop : m.stopped = true) (hle : n ≤ n') :
    m.At table states d b all n' := by
  refine ⟨h.fits, fun hr => absurd (hr.symm.trans hstop) Bool.false_ne_true, h.done, h.raised, fun _ => ?_⟩
  refine Option.not_isSome_iff_eq_none.1 fun hsome => ?_
  have := seqAfter_isSome_of_le hle hsome
  simp [h.ended hstop] at this

/-- One segment, from its entering on. -/
theorem At.segment (h : m.At table states d b all (segStart all.length k i)) (hi : i < k) (small : all.length < 2 ^ 31)
    (hconv : ∀ hi : i < 15, m.conv[i] = convSkipped) {ch : Channel} (hch : channelRun table states (segmentOf all k i) 0 = .ok ch) :
    (Merger.segment table states d b limit (m.enter i) (segStart all.length k i) (segmentOf all k i) ch.specE ch.specS).At
      table states d b all (segStart all.length k (i + 1)) ∧
    m.SameEntriesBut i
      (Merger.segment table states d b limit (m.enter i) (segStart all.length k i) (segmentOf all k i) ch.specE ch.specS) ∧
    ∀ hi : i < 15, EntryOf table states d b all limit k i
      (Merger.segment table states d b limit (m.enter i) (segStart all.length k i) (segmentOf all k i) ch.specE ch.specS).conv[i] := by
  have step := segStart_le_succ all.length k i
  cases hrun : m.stopped with
  | true =>
    rw [Merger.enter_of_stopped hrun, Merger.segment_of_stopped hrun]
    have ended := h.ended hrun
    exact ⟨h.of_stopped hrun step, sameEntriesBut_of_conv_eq i rfl, fun hi => ⟨fun _ hsome => by simp [ended] at hsome, fun _ => hconv hi⟩⟩
  | false =>
    have reads := h.reads_enter hrun (segStart_le all.length (by omega) hi.le) i limit
    obtain ⟨reads', same⟩ := reads.segment (vs := segmentOf all k i) small (List.take_prefix _ _) (speculatedAfter_zero table states all _) hch
    rw [Nat.zero_add, segmentOf_length all hi] at reads'
    have position := reads'.position
    rw [Nat.add_sub_cancel' step] at position
    refine ⟨position, fun x hx hne => (same x hx hne).trans (m.enter_sameEntriesBut i x hx hne),
      fun hi' => ⟨fun _ _ => reads'.judged hi', ?_⟩⟩
    exact fun hnot => absurd ⟨hi, by rw [h.running hrun]; rfl⟩ hnot

/-- The segments from segment i on. -/
theorem At.walk (r : Nat) {i : Nat} {m : Merger} (hk : i + r = k) (hpos : 0 < k) (small : all.length < 2 ^ 31)
    (h : m.At table states d b all (segStart all.length k i)) (hconv : ∀ x (hx : x < 15), i ≤ x → m.conv[x] = convSkipped)
    {cs : List Channel} (hcs : speculate table states ((List.range' i r).map (segmentOf all k)) = .ok cs) :
    (Merger.walk table states d b limit m i (segStart all.length k i) ((List.range' i r).map (segmentOf all k)) cs).At
      table states d b all all.length ∧
    (∀ x (hx : x < 15), x < i → (Merger.walk table states d b limit m i (segStart all.length k i)
      ((List.range' i r).map (segmentOf all k)) cs).conv[x] = m.conv[x]) ∧
    ∀ x (hx : x < 15), i ≤ x → EntryOf table states d b all limit k x
      (Merger.walk table states d b limit m i (segStart all.length k i) ((List.range' i r).map (segmentOf all k)) cs).conv[x] := by
  induction r generalizing i m cs with
  | zero =>
    obtain rfl : i = k := hk
    rw [segStart_count _ hpos] at h
    exact ⟨h, fun _ _ _ => rfl, fun x hx hle => ⟨fun hlt => absurd hlt (by omega), fun _ => hconv x hx hle⟩⟩
  | succ r ih =>
    rw [List.range'_succ, List.map_cons] at hcs ⊢
    simp only [speculate] at hcs
    cases hch : channelRun table states (segmentOf all k i) 0 with
    | error e => simp [hch] at hcs
    | ok ch =>
      cases hrest : speculate table states ((List.range' (i + 1) r).map (segmentOf all k)) with
      | error e => simp [hch, hrest] at hcs
      | ok rest =>
        simp only [hch, hrest, Except.ok.injEq] at hcs
        subst hcs
        have hi : i < k := by omega
        obtain ⟨position, same, entry⟩ := h.segment (limit := limit) hi small (fun hx => hconv i hx le_rfl) hch
        have next : segStart all.length k i + (segmentOf all k i).length = segStart all.length k (i + 1) := by
          rw [segmentOf_length all hi, Nat.add_sub_cancel' (segStart_le_succ _ _ _)]
        obtain ⟨final, before, after⟩ := ih (by omega) position
          (fun x hx hle => (same x hx (by omega)).trans (hconv x hx (by omega))) hrest
        simp only [Merger.walk, next]
        refine ⟨final, fun x hx hlt => (before x hx (by omega)).trans (same x hx (by omega)), fun x hx hle => ?_⟩
        rcases Nat.eq_or_lt_of_le hle with rfl | hlt
        · rw [before i hx (Nat.lt_succ_self i)]
          exact entry hx
        · exact after x hx hlt

end Merger

/-! ## DECODE -/

theorem State.stream_length (s : State) : s.stream.length = s.streamLen := Memory.bytes_length _ _ _

theorem State.streamLen_lt (s : State) : s.streamLen < 2 ^ 31 := by
  have := s.bitCount_lt
  rw [State.streamLen]
  omega

/-- The outcome of DECODE's merge: SEQDECODE's, with an entry for every segment. -/
theorem State.merge_at (s : State) {k : Nat} (hk : 0 < k) {cs : List Channel}
    (hcs : speculate s.table s.counts.states.toNat (s.segments k) = .ok cs) :
    ((s.setWork { s.work with channels := cs }).merge k).At s.table s.counts.states.toNat s.decodedLen s.bitCount s.stream
      s.stream.length ∧
    ∀ i (hi : i < 15), EntryOf s.table s.counts.states.toNat s.decodedLen s.bitCount s.stream s.convLimit.toNat k i
      ((s.setWork { s.work with channels := cs }).merge k).conv[i] := by
  have small : s.stream.length < 2 ^ 31 := s.stream_length ▸ s.streamLen_lt
  have start : (Merger.start s.decodedLen).At s.table s.counts.states.toNat s.decodedLen s.bitCount s.stream
      (segStart s.stream.length k 0) := by
    rw [segStart_zero]
    exact Merger.At.start
  rw [State.segments, List.range_eq_range'] at hcs
  obtain ⟨final, -, entries⟩ := start.walk (limit := s.convLimit.toNat) k (Nat.zero_add k) hk small
    (fun x hx _ => by simp [Merger.start]) hcs
  rw [segStart_zero, ← List.range_eq_range'] at final entries
  exact ⟨final, fun i hi => entries i hi (Nat.zero_le i)⟩

section Outcome

variable {s : State} {k : Nat} (hk : s.badCount k = false) (hp : s.status.phase = .tables) {cs : List Channel}
  (hcs : speculate s.table s.counts.states.toNat (s.segments k) = .ok cs)

include hk

theorem State.pos_of_badCount : 0 < k := by
  rw [Bool.eq_false_iff, Ne, State.badCount_eq_true_iff] at hk
  omega

include hp hcs

/-- Where SEQDECODE succeeds DECODE stores its output (44_decode.md R127). -/
theorem decodeRun_of_seqDecode_ok {fin : Nat} {m : Emitted} (h : seqDecode s = .ok (fin, m)) :
    ∃ c, decodeRun k s = succeed (((s.storeDecoded m.rev.reverse (decodedRegs s m.bits fin)).setConv
      { start := startRegs s.streamLen k, conv := c }).setWork Workspace.none) := by
  obtain ⟨final, -⟩ := s.merge_at (State.pos_of_badCount hk) hcs
  have result : seqResult s.table s.counts.states.toNat s.decodedLen s.bitCount s.stream = .ok (fin, m) := h
  rw [decodeRun_of_speculate_ok hk hp hcs]
  generalize (s.setWork { s.work with channels := cs }).merge k = merged at final ⊢
  refine ⟨merged.conv, ?_⟩
  rcases mergeResult_cases (s.setWork { s.work with channels := cs }) k merged with
    ⟨e, hr, -, eq⟩ | ⟨e, hr, -, eq⟩ | ⟨-, hd, eq⟩ | ⟨hr, hd, eq⟩
  · exact absurd (result.symm.trans (final.raised e hr)) (by simp)
  · exact absurd (result.symm.trans (final.raised e hr)) (by simp)
  · obtain ⟨rfl, rfl⟩ := Prod.mk.inj (Except.ok.inj (result.symm.trans (final.done hd)))
    rw [eq]
    rfl
  · obtain ⟨hw, -, loop⟩ := seqAfter_some le_rfl (final.running (by simp [Merger.stopped, hr, hd]))
    rw [List.drop_length, seqLoop, if_pos hw] at loop
    exact absurd (result.symm.trans loop) (by simp)

/-- Where SEQDECODE ends with E_LENGTH so does DECODE. -/
theorem decodeRun_of_seqDecode_error {e : Ending} (h : seqDecode s = .error e) (he : e.code = .length) :
    ∃ c, decodeRun k s = (failDecode (s.setConv { start := startRegs s.streamLen k, conv := c }) e).releaseWork := by
  obtain ⟨final, -⟩ := s.merge_at (State.pos_of_badCount hk) hcs
  have result : seqResult s.table s.counts.states.toNat s.decodedLen s.bitCount s.stream = .error e := h
  rw [decodeRun_of_speculate_ok hk hp hcs]
  generalize (s.setWork { s.work with channels := cs }).merge k = merged at final ⊢
  refine ⟨merged.conv, ?_⟩
  rcases mergeResult_cases (s.setWork { s.work with channels := cs }) k merged with
    ⟨e', hr, -, eq⟩ | ⟨e', hr, hne, eq⟩ | ⟨-, hd, eq⟩ | ⟨hr, hd, eq⟩
  · obtain rfl : e = e' := Except.error.inj (result.symm.trans (final.raised e' hr))
    rw [eq]
    rfl
  · obtain rfl : e = e' := Except.error.inj (result.symm.trans (final.raised e' hr))
    exact absurd he hne
  · exact absurd (result.symm.trans (final.done hd)) (by simp)
  · obtain ⟨hw, -, loop⟩ := seqAfter_some le_rfl (final.running (by simp [Merger.stopped, hr, hd]))
    rw [List.drop_length, seqLoop, if_pos hw] at loop
    obtain rfl := Except.error.inj (result.symm.trans loop)
    rw [eq]
    rfl

end Outcome

/-! ## Valid slots -/

theorem channelRun_of_slotsValid {table : Memory} {states : Nat} (valid : SlotsValid table states) (bs : List Byte) {st : Nat}
    (hst : st < states) : ∃ c, channelRun table states bs st = .ok c := by
  induction bs generalizing st with
  | nil => exact ⟨_, rfl⟩
  | cons v bs ih =>
    obtain ⟨e, he⟩ := valid st hst v
    obtain ⟨c, hc⟩ := ih (readSlot_ok he).2.1
    exact ⟨{ specE := e :: c.specE, specS := e.next :: c.specS }, by simp only [channelRun, he, hc]⟩

theorem speculate_of_slotsValid {table : Memory} {states : Nat} (valid : SlotsValid table states) (hpos : 0 < states)
    (segs : List (List Byte)) : ∃ cs, speculate table states segs = .ok cs := by
  induction segs with
  | nil => exact ⟨_, rfl⟩
  | cons seg segs ih =>
    obtain ⟨c, hc⟩ := channelRun_of_slotsValid valid seg hpos
    obtain ⟨cs, hcs⟩ := ih
    exact ⟨c :: cs, by simp only [speculate, hc, hcs]⟩

/-- With valid slots SEQDECODE can fail with E_LENGTH only. -/
theorem seqLoop_error_of_slotsValid {table : Memory} {states d b : Nat} (valid : SlotsValid table states) {bs : List Byte} {j st : Nat}
    {m : Emitted} (hm : m.Fits d b) (hst : st < states) {e : Ending} (h : seqLoop table states d b bs j st m = .error e) :
    ∃ w, e = lengthEnding w := by
  induction bs generalizing j st m with
  | nil =>
    simp only [seqLoop] at h
    split at h
    · exact ⟨m.w, (Except.error.inj h).symm⟩
    · cases h
  | cons v bs ih =>
    obtain ⟨slot, hs⟩ := valid st hst v
    simp only [seqLoop, hs] at h
    split at h
    · rcases emitSlot_cases (j := j) (e := slot) hm with ⟨m', he, fits⟩ | ⟨w, he⟩
      · simp only [he] at h
        exact ih fits (readSlot_ok hs).2.1 h
      · simp only [he] at h
        exact ⟨w, (Except.error.inj h).symm⟩
    · cases h

/-- Settles O19: the merge stands where SEQDECODE stands, byte by byte. -/
theorem decodeAgreesWithSingleChannel : Obligations.DecodeAgreesWithSingleChannel := by
  intro s k hp h1 hmax hpos valid
  have hk := State.badCount_of_inRange h1 hmax
  obtain ⟨cs, hcs⟩ := speculate_of_slotsValid valid hpos (s.segments k)
  refine ⟨fun fin m h => ⟨?length, ?ok⟩, fun e h => ?error⟩
  case length =>
    rcases seqLoop_cases (Emitted.start_fits s.decodedLen s.bitCount) with ⟨fin', m', h', fits, hw⟩ | ⟨w, h'⟩ | ⟨e, h', -⟩
    · obtain ⟨-, rfl⟩ := Prod.mk.inj (Except.ok.inj (h.symm.trans h'))
      exact fits.length.trans hw
    · exact absurd (h.symm.trans h') (by simp)
    · exact absurd (h.symm.trans h') (by simp)
  case ok =>
    obtain ⟨c, run⟩ := decodeRun_of_seqDecode_ok hk hp hcs h
    exact ⟨c, by rw [exec_next, runOf, run]; rfl⟩
  case error =>
    obtain ⟨w, rfl⟩ := seqLoop_error_of_slotsValid valid (Emitted.start_fits _ _) hpos h
    obtain ⟨c, run⟩ := decodeRun_of_seqDecode_error hk hp hcs h rfl
    have finish := failDecode_finish (s.setConv { start := startRegs s.streamLen k, conv := c }) 0x04
      (e := lengthEnding w) (show ErrCode.length ≠ .ok by decide)
    refine ⟨rfl, c, _, s.draws + 1, fun a ha => voidOutput_byte_past s ha, ?_⟩
    rw [exec_next, runOf, run]
    exact congrArg (fun t : State => Host.Outcome.next (t.setWork Workspace.none)) finish

/-- Before bit B the output is pending exactly where the single-channel loop says so. -/
theorem State.outputPending_iff {s : State} {n : Nat} (hb : 8 * n ≤ s.bitCount) :
    s.outputPending n ↔ (seqAfter s.table s.counts.states.toNat s.decodedLen s.bitCount s.stream n).isSome = true := by
  constructor
  · rintro ⟨w, -, h⟩
    exact seqPending_isSome (by simp only [List.length_take]; omega) h
  · intro h
    obtain ⟨⟨st, m⟩, hm⟩ := Option.isSome_iff_exists.1 h
    obtain ⟨hw, -, loop⟩ := seqPending_some hm
    have := loop []
    rw [List.append_nil, seqLoop, if_pos hw] at this
    exact ⟨m.w, hw, this⟩

/-- The entries after a DECODE that merged. -/
theorem decodeRun_entries {s : State} {k : Nat} (hk : 0 < k)
    (hc : (decodeRun k s).ending.code = .ok ∨ (decodeRun k s).ending.code = .length) (i : Nat) (hi : i < 15) :
    EntryOf s.table s.counts.states.toNat s.decodedLen s.bitCount s.stream s.convLimit.toNat k i (decodeRun k s).state.conv.conv[i] := by
  obtain ⟨cs, hcs, hconv⟩ := decodeRun_conv hc
  simp only [hconv, State.mergedConv]
  exact (s.merge_at hk hcs).2 i hi

/-- What an entry says in the terms of the specification: before the last byte "pending" is what the merge sees. -/
theorem EntryOf.values {s : State} {k i : Nat} {v : Word}
    (entry : EntryOf s.table s.counts.states.toNat s.decodedLen s.bitCount s.stream s.convLimit.toNat k i v) :
    (v ≠ convSkipped ↔ i < k ∧ s.outputPending (segStart s.streamLen k i)) ∧
    (v ≠ convSkipped → (v = 0 ↔ s.trueState (segStart s.streamLen k i) = some 0)) ∧
    (v ≠ convSkipped → v ≠ convNone →
      v.toNat ≤ segStart s.streamLen k (i + 1) - segStart s.streamLen k i ∧ (s.convLimit ≠ 0 → v.toNat ≤ s.convLimit.toNat) ∧
      s.trueState (segStart s.streamLen k i + v.toNat) = s.speculatedState (segStart s.streamLen k i) v.toNat ∧
      ∀ c, 0 < c → c < v.toNat → ¬ s.trueState (segStart s.streamLen k i + c) = s.speculatedState (segStart s.streamLen k i) c) ∧
    (v = convNone →
      ∀ c, 0 < c → c ≤ segStart s.streamLen k (i + 1) - segStart s.streamLen k i → segStart s.streamLen k i + c < s.streamLen →
        (s.convLimit = 0 ∨ c ≤ s.convLimit.toNat) → s.outputPending (segStart s.streamLen k i + c) →
        ¬ s.trueState (segStart s.streamLen k i + c) = s.speculatedState (segStart s.streamLen k i) c) := by
  obtain ⟨judged, skipped⟩ := entry
  rw [s.stream_length] at judged skipped
  have pendingStart : i < k → (s.outputPending (segStart s.streamLen k i) ↔
      (seqAfter s.table s.counts.states.toNat s.decodedLen s.bitCount s.stream (segStart s.streamLen k i)).isSome = true) :=
    fun hi => by
      refine s.outputPending_iff ?_
      rcases Nat.eq_zero_or_pos s.streamLen with h0 | hl
      · simp [segStart, h0]
      · have := segStart_lt hl hi
        simp only [State.streamLen] at this ⊢
        omega
  have entered : v ≠ convSkipped → i < k ∧
      (seqAfter s.table s.counts.states.toNat s.decodedLen s.bitCount s.stream (segStart s.streamLen k i)).isSome = true :=
    fun hne => not_not.1 fun hnot => hne (skipped hnot)
  have shown := fun hne => judged (entered hne).1 (entered hne).2
  have limit : s.convLimit = 0 ↔ s.convLimit.toNat = 0 := by
    rw [← BitVec.toNat_inj]
    rfl
  refine ⟨⟨fun hne => ?_, fun h => ?_⟩, fun hne => (shown hne).zero, fun hne hnn => ?_, fun hn c hpos hle hlt hlimit hpend => ?_⟩
  · exact ⟨(entered hne).1, (pendingStart (entered hne).1).2 (entered hne).2⟩
  · exact (judged h.1 ((pendingStart h.1).1 h.2)).entered
  · obtain ⟨le, leLimit, agree, first⟩ := (shown hne).count hnn
    exact ⟨le, fun hl => leLimit (fun h0 => hl (limit.2 h0)), agree, first⟩
  · refine (shown (by rw [hn]; decide)).never hn c hpos hle (hlimit.imp_left limit.1) ((s.outputPending_iff ?_).1 hpend)
    simp only [State.streamLen] at hlt ⊢
    omega

/-- Without output to come no segment is entered. -/
theorem seqAfter_of_decodedLen_zero {table : Memory} {states b n : Nat} {all : List Byte} :
    (seqAfter table states 0 b all n).isSome ≠ true := fun h => by
  have := seqAfter_isSome_of_le (Nat.zero_le n) h
  simp [seqAfter_zero] at this

/-- Settles O39: each segment's entry is judged byte by byte. -/
theorem convergenceValues : Obligations.ConvergenceValues := by
  intro s t k ht hc
  obtain rfl := exec_eq_next.1 ht
  have hk : s.badCount k = false := by
    rcases decodeRun_cases k s with ⟨-, run⟩ | ⟨e, hk, -⟩ | ⟨cs, hk, -⟩ | ⟨hk, -⟩
    · rw [runOf, run] at hc
      simp [raiseBadArg] at hc
    all_goals exact hk
  have hpos := State.pos_of_badCount hk
  have entries := decodeRun_entries hpos hc
  refine ⟨fun hd => ?_, fun hd i => ?_, fun i => (entries i.val i.isLt).values⟩
  · have first : (seqAfter s.table s.counts.states.toNat s.decodedLen s.bitCount s.stream
        (segStart s.stream.length k 0)).isSome = true := by
      rw [segStart_zero, seqAfter_zero, if_pos hd]
      rfl
    refine ((entries 0 (by decide)).judged hpos first).zero.2 ?_
    rw [segStart_zero]
    rfl
  · exact (entries i.val i.isLt).skipped fun h => seqAfter_of_decodedLen_zero (hd ▸ h.2)

end Machine
end Sys2Proof
end

section
/-! The bit-by-bit walk and SEQDECODE (44_decode.md §4): byte by byte they emit the same symbols, fail at the same one, and end in the
same state; and no check of R130 ever fails. -/

namespace Sys2Proof
namespace Machine

/-! ## The walk of R130 in a laid tree -/

/-- Both loops of R130 from somewhere in the bitstream on: the output and the final state, or the error. -/
def walkFrom (nodes : List TreeNode) (count d b : Nat) (bits : List Bool) (t : TreeWalk) : Except Ending (TreeWalk × Nat) :=
  match walkSymbols nodes count d b bits t with
  | .error e => .error e
  | .ok (t', rest) =>
    match finishByte nodes count rest t'.p t'.cur with
    | .error e => .error e
    | .ok cur => .ok (t', (nodeAt nodes cur).value.toNat)

theorem treeWalk_eq_walkFrom {nodes : List TreeNode} {count d b : Nat} (hd : 0 < d) (bits : List Bool) :
    treeWalk nodes count d b bits = walkFrom nodes count d b bits { p := 0, cur := 0, w := 0, rev := [] } := by
  simp only [treeWalk, walkFrom, if_pos hd] <;> rfl

/-- The check of R130 passes at every internal node. -/
theorem LaidTree.checkedChild_ok {nodes : List TreeNode} {n : Nat} (t : LaidTree nodes n) {cur : Nat}
    (hint : (nodeAt nodes cur).isInternal = true) (bit : Bool) :
    checkedChild (treeEntries nodes) (2 * n - 1) cur bit = .ok (childOf nodes cur bit) := by
  obtain ⟨inside, -, kind⟩ := t.child_cases hint bit
  rw [t.size] at inside
  simp only [checkedChild, childOf_treeEntries, nodeAt_treeEntries]
  rw [if_neg]
  rintro (hge | ⟨hleaf, hinternal⟩)
  · omega
  · rcases kind with h | ⟨-, h⟩
    · rw [hleaf] at h
      cases h
    · rw [hinternal] at h
      cases h

section Laid

variable {nodes : List TreeNode} {n : Nat} (t : LaidTree nodes n)

include t

/-- One bit of the first loop. -/
theorem walkSymbols_cons {d b : Nat} {bit : Bool} {rest : List Bool} {w : TreeWalk} (hw : w.w < d) (hp : w.p ≠ b)
    (hint : (nodeAt nodes w.cur).isInternal = true) :
    walkSymbols (treeEntries nodes) (2 * n - 1) d b (bit :: rest) w =
      walkSymbols (treeEntries nodes) (2 * n - 1) d b rest
        (if (nodeAt nodes (childOf nodes w.cur bit)).isLeaf then
          { p := w.p + 1, cur := 0, w := w.w + 1, rev := (nodeAt nodes (childOf nodes w.cur bit)).value :: w.rev }
        else { w with p := w.p + 1, cur := childOf nodes w.cur bit }) := by
  simp only [walkSymbols, if_pos hw, if_neg hp, t.checkedChild_ok hint, nodeAt_treeEntries]
  split <;> rfl

theorem finishByte_cons {bit : Bool} {rest : List Bool} {p cur : Nat} (hp : p % 8 ≠ 0) (hint : (nodeAt nodes cur).isInternal = true) :
    finishByte (treeEntries nodes) (2 * n - 1) (bit :: rest) p cur =
      finishByte (treeEntries nodes) (2 * n - 1) rest (p + 1)
        (if (nodeAt nodes (childOf nodes cur bit)).isLeaf then 0 else childOf nodes cur bit) := by
  simp only [finishByte, if_neg hp, t.checkedChild_ok hint, nodeAt_treeEntries]

/-- The walk of R130 fails with E_LENGTH only: E_CORRUPT cannot be met. -/
theorem walkSymbols_error (h2 : 2 ≤ n) {d b : Nat} {bits : List Bool} {w : TreeWalk}
    (hint : (nodeAt nodes w.cur).isInternal = true) :
    (∃ w' rest, walkSymbols (treeEntries nodes) (2 * n - 1) d b bits w = .ok (w', rest) ∧ (nodeAt nodes w'.cur).isInternal = true) ∨
    ∃ x, walkSymbols (treeEntries nodes) (2 * n - 1) d b bits w = .error (lengthEnding x) := by
  induction bits generalizing w with
  | nil =>
    by_cases hw : w.w < d
    · exact .inr ⟨w.w, by simp only [walkSymbols, if_pos hw]⟩
    · exact .inl ⟨w, [], by simp only [walkSymbols, if_neg hw], hint⟩
  | cons bit bits ih =>
    by_cases hw : w.w < d
    · by_cases hp : w.p = b
      · exact .inr ⟨w.w, by simp only [walkSymbols, if_pos hw, if_pos hp]⟩
      · rw [walkSymbols_cons t hw hp hint]
        refine ih ?_
        have next := t.step_isInternal h2 hint bit
        split at next
        · rwa [if_pos ‹_›]
        · rwa [if_neg ‹_›]
    · exact .inl ⟨w, bit :: bits, by simp only [walkSymbols, if_neg hw], hint⟩

theorem finishByte_isOk (h2 : 2 ≤ n) {bits : List Bool} {p cur : Nat} (hint : (nodeAt nodes cur).isInternal = true) :
    ∃ cur', finishByte (treeEntries nodes) (2 * n - 1) bits p cur = .ok cur' := by
  induction bits generalizing p cur with
  | nil => exact ⟨cur, rfl⟩
  | cons bit bits ih =>
    by_cases hp : p % 8 = 0
    · exact ⟨cur, by simp only [finishByte, if_pos hp]⟩
    · rw [finishByte_cons t hp hint]
      exact ih (t.step_isInternal h2 hint bit)

theorem treeWalk_error_length (h2 : 2 ≤ n) {d b : Nat} {bits : List Bool} {e : Ending}
    (h : treeWalk (treeEntries nodes) (2 * n - 1) d b bits = .error e) : ∃ w, e = lengthEnding w := by
  simp only [treeWalk] at h
  rcases walkSymbols_error t h2 (d := d) (b := b) (bits := bits) (w := { p := 0, cur := 0, w := 0, rev := [] }) (t.root h2).1 with
    ⟨w', rest, ok, hint⟩ | ⟨x, error⟩
  · obtain ⟨cur', finish⟩ := finishByte_isOk t h2 (bits := rest) (p := w'.p) hint
    simp only [ok, finish] at h
    by_cases hd : 0 < d
    · simp [hd] at h
    · simp [hd] at h
  · simp only [error] at h
    exact ⟨x, (Except.error.inj h).symm⟩

end Laid

/-! ## One byte -/

/-- The bit indices from r − 1 down. -/
def downFrom : Nat → List Nat
  | 0 => []
  | r + 1 => r :: downFrom r

/-- The symbols that the walk through some bits emits, each with the number of bits of the byte consumed at its end. -/
def symbolsOut (nodes : List TreeNode) (v : Byte) (is : List Nat) (cur : Nat) : List (Byte × Nat) :=
  (walkOutput nodes v is cur).map (fun p => (p.1, 8 - p.2))

theorem emitSlot_slotFn (nodes : List TreeNode) (d b j st : Nat) (v : Byte) (m : Emitted) :
    emitSlot d b j (slotFn (treeEntries nodes) st v) m =
      emitSymbols d b j (symbolsOut nodes v bitIndices (nodeOfState (treeEntries nodes) st)) m := by
  rw [emitSlot, endPositions, setBits_slotFn, walkOutput_treeEntries, slotFn_treeEntries, symbolsOut, List.map_map, List.zip_map']
  rfl

theorem emitSymbols_of_out {d b j : Nat} {xs : List (Byte × Nat)} {m : Emitted} (h : m.w = d) : emitSymbols d b j xs m = .ok m := by
  cases xs with
  | nil => rfl
  | cons x xs => simp only [emitSymbols, if_pos h]

/-- The second loop of R130 walks the rest of the byte. -/
theorem finishByte_downFrom {nodes : List TreeNode} {n : Nat} (t : LaidTree nodes n) (h2 : 2 ≤ n) (j : Nat) (v : Byte) {r : Nat}
    (hr : r ≤ 7) {cur : Nat} (hint : (nodeAt nodes cur).isInternal = true) (rest : List Bool) :
    finishByte (treeEntries nodes) (2 * n - 1) ((downFrom r).map v.getLsbD ++ rest) (8 * j + 8 - r) cur =
      .ok (walkEnd nodes v (downFrom r) cur) := by
  induction r generalizing cur with
  | zero =>
    have whole : (8 * j + 8 - 0) % 8 = 0 := by omega
    cases rest with
    | nil => rfl
    | cons bit rest => simp only [downFrom, List.map_nil, List.nil_append, finishByte, if_pos whole, walkEnd]
  | succ r ih =>
    rw [downFrom, List.map_cons, List.cons_append, finishByte_cons t (by omega) hint,
      show 8 * j + 8 - (r + 1) + 1 = 8 * j + 8 - r by omega, ih (by omega) (t.step_isInternal h2 hint _)]
    rfl

/-- What the walk through the rest of byte j leaves, given the emission of its symbols: the error of the first symbol that does not
fit; or the D-th symbol with the state at the byte's end; or the bits that follow, unless bit B was met. -/
def afterByte (nodes : List TreeNode) (n d b j cur : Nat) (rest : List Bool) : Except Ending Emitted → Except Ending (TreeWalk × Nat)
  | .error e => .error e
  | .ok m =>
    if m.w < d then
      if 8 * (j + 1) ≤ b then walkFrom (treeEntries nodes) (2 * n - 1) d b rest { p := 8 * (j + 1), cur := cur, w := m.w, rev := m.rev }
      else .error (lengthEnding m.w)
    else .ok ({ p := m.bits, cur := 0, w := m.w, rev := m.rev }, (nodeAt nodes cur).value.toNat)

theorem symbolsOut_endpos {nodes : List TreeNode} {v : Byte} {r cur : Nat} {x : Byte × Nat}
    (hx : x ∈ symbolsOut nodes v (downFrom r) cur) (hr : r ≤ 8) : 8 - r < x.2 := by
  have below : ∀ r, ∀ i ∈ downFrom r, i < r := by
    intro r
    induction r with
    | zero => exact fun i hi => absurd hi List.not_mem_nil
    | succ r ih =>
      intro i hi
      rcases List.mem_cons.1 hi with rfl | hi
      · exact Nat.lt_succ_self i
      · exact (ih i hi).trans (Nat.lt_succ_self r)
  obtain ⟨p, hp, rfl⟩ := List.mem_map.1 hx
  have := below r p.2 ((walkOutput_sublist nodes v _ cur).subset (List.mem_map_of_mem hp))
  show 8 - r < 8 - p.2
  omega

section Byte

variable {nodes : List TreeNode} {n : Nat} (t : LaidTree nodes n) (h2 : 2 ≤ n) {d b j : Nat} (v : Byte) (rest : List Bool) {r : Nat}

/-- At bit B the walk fails, and so does the emission of a symbol that ends behind it. -/
theorem walkFrom_downFrom_of_end (hr : r + 1 ≤ 8) {cur fin : Nat} {m : Emitted} (hw : m.w < d) (hp : 8 * j + 8 - (r + 1) = b) :
    walkFrom (treeEntries nodes) (2 * n - 1) d b ((downFrom (r + 1)).map v.getLsbD ++ rest)
        { p := 8 * j + 8 - (r + 1), cur := cur, w := m.w, rev := m.rev } =
      afterByte nodes n d b j fin rest (emitSymbols d b j (symbolsOut nodes v (downFrom (r + 1)) cur) m) := by
  have stop : walkFrom (treeEntries nodes) (2 * n - 1) d b ((downFrom (r + 1)).map v.getLsbD ++ rest)
      { p := 8 * j + 8 - (r + 1), cur := cur, w := m.w, rev := m.rev } = .error (lengthEnding m.w) := by
    simp only [walkFrom, downFrom, List.map_cons, List.cons_append, walkSymbols, if_pos hw, if_pos hp]
  rw [stop]
  cases hout : symbolsOut nodes v (downFrom (r + 1)) cur with
  | nil =>
    have below : ¬ 8 * (j + 1) ≤ b := by omega
    simp only [emitSymbols, afterByte, if_pos hw, if_neg below]
  | cons x xs =>
    have hx := symbolsOut_endpos (hout ▸ List.mem_cons_self : x ∈ symbolsOut nodes v (downFrom (r + 1)) cur) hr
    have tooLong : b < 8 * j + x.2 := by omega
    simp only [emitSymbols, if_neg (Nat.ne_of_lt hw), if_pos tooLong, afterByte]

include t

/-- The walk through one more bit of byte j. -/
theorem walkFrom_downFrom_succ (hr : r + 1 ≤ 8) {cur w : Nat} {rev : List Byte} (hint : (nodeAt nodes cur).isInternal = true) (hw : w < d)
    (hp : 8 * j + 8 - (r + 1) ≠ b) :
    walkFrom (treeEntries nodes) (2 * n - 1) d b ((downFrom (r + 1)).map v.getLsbD ++ rest)
        { p := 8 * j + 8 - (r + 1), cur := cur, w := w, rev := rev } =
      walkFrom (treeEntries nodes) (2 * n - 1) d b ((downFrom r).map v.getLsbD ++ rest)
        (if (nodeAt nodes (childOf nodes cur (v.getLsbD r))).isLeaf then
          { p := 8 * j + 8 - r, cur := 0, w := w + 1, rev := (nodeAt nodes (childOf nodes cur (v.getLsbD r))).value :: rev }
        else { p := 8 * j + 8 - r, cur := childOf nodes cur (v.getLsbD r), w := w, rev := rev }) := by
  have step := walkSymbols_cons t (bit := v.getLsbD r) (rest := (downFrom r).map v.getLsbD ++ rest)
    (w := { p := 8 * j + 8 - (r + 1), cur := cur, w := w, rev := rev }) hw hp hint
  have pos : 8 * j + 8 - (r + 1) + 1 = 8 * j + 8 - r := by omega
  simp only [walkFrom, downFrom, List.map_cons, List.cons_append, step, pos]

include h2

/-- With the D-th symbol out, the rest of byte j gives the final state. -/
theorem walkFrom_downFrom_of_out (hr : r ≤ 7) {cur w : Nat} {rev : List Byte} (hint : (nodeAt nodes cur).isInternal = true)
    (hw : ¬ w < d) :
    walkFrom (treeEntries nodes) (2 * n - 1) d b ((downFrom r).map v.getLsbD ++ rest)
        { p := 8 * j + 8 - r, cur := cur, w := w, rev := rev } =
      .ok ({ p := 8 * j + 8 - r, cur := cur, w := w, rev := rev }, (nodeAt nodes (walkEnd nodes v (downFrom r) cur)).value.toNat) := by
  have stop : walkSymbols (treeEntries nodes) (2 * n - 1) d b ((downFrom r).map v.getLsbD ++ rest)
      { p := 8 * j + 8 - r, cur := cur, w := w, rev := rev } =
      .ok ({ p := 8 * j + 8 - r, cur := cur, w := w, rev := rev }, (downFrom r).map v.getLsbD ++ rest) := by
    cases (downFrom r).map v.getLsbD ++ rest <;> simp only [walkSymbols, if_neg hw]
  simp only [walkFrom, stop, finishByte_downFrom t h2 j v hr hint rest, nodeAt_treeEntries]

/-- The walk through the last r bits of byte j. -/
theorem walkFrom_downFrom (hr : r ≤ 8) {cur : Nat} {m : Emitted} (hint : (nodeAt nodes cur).isInternal = true) (hw : m.w < d)
    (hp : 8 * j + 8 - r ≤ b) :
    walkFrom (treeEntries nodes) (2 * n - 1) d b ((downFrom r).map v.getLsbD ++ rest)
        { p := 8 * j + 8 - r, cur := cur, w := m.w, rev := m.rev } =
      afterByte nodes n d b j (walkEnd nodes v (downFrom r) cur) rest (emitSymbols d b j (symbolsOut nodes v (downFrom r) cur) m) := by
  induction r generalizing cur m with
  | zero =>
    have whole : 8 * (j + 1) ≤ b := by omega
    simp only [downFrom, symbolsOut, walkOutput, List.map_nil, emitSymbols, afterByte, walkEnd, List.nil_append, if_pos hw,
      if_pos whole]
    rfl
  | succ r ih =>
    by_cases hend : 8 * j + 8 - (r + 1) = b
    · exact walkFrom_downFrom_of_end v rest hr hw hend
    · rw [walkFrom_downFrom_succ t v rest hr hint hw hend]
      have next := t.step_isInternal h2 hint (v.getLsbD r)
      by_cases hleaf : (nodeAt nodes (childOf nodes cur (v.getLsbD r))).isLeaf = true
      · have fitsB : ¬ b < 8 * j + (8 - r) := by omega
        rw [if_pos hleaf] at next ⊢
        simp only [downFrom, symbolsOut, walkOutput, if_pos hleaf, List.map_cons, emitSymbols, if_neg (Nat.ne_of_lt hw), if_neg fitsB,
          walkEnd]
        by_cases hlast : m.w + 1 = d
        · have out : ¬ m.w + 1 < d := by omega
          rw [emitSymbols_of_out hlast, walkFrom_downFrom_of_out t h2 v rest (by omega) next out]
          simp only [afterByte, if_neg out, if_pos hlast]
          rw [show 8 * j + (8 - r) = 8 * j + 8 - r by omega]
        · rw [if_neg hlast]
          exact ih (m := ⟨m.w + 1, m.bits, (nodeAt nodes (childOf nodes cur (v.getLsbD r))).value :: m.rev⟩) (by omega) next
            (show m.w + 1 < d by omega) (by omega)
      · rw [if_neg hleaf] at next ⊢
        simp only [downFrom, symbolsOut, walkOutput, walkEnd, if_neg hleaf]
        exact ih (by omega) next hw (by omega)

end Byte

/-! ## The whole bitstream -/

/-- SEQDECODE's outcome as the walk's. -/
def asWalk : Except Ending (Nat × Emitted) → Except Ending (TreeWalk × Nat)
  | .error e => .error e
  | .ok (fin, m) => .ok ({ p := m.bits, cur := 0, w := m.w, rev := m.rev }, fin)

/-- From a byte's start on, with L − j bytes left. -/
theorem walkFrom_eq_seqLoop {nodes : List TreeNode} {n : Nat} (t : LaidTree nodes n) (h2 : 2 ≤ n) {table : Memory}
    (slots : ∀ st < n - 1, ∀ v : Byte, readSlot table (n - 1) st v = .ok (slotFn (treeEntries nodes) st v)) {d b : Nat}
    (bs : List Byte) {j cur : Nat} {m : Emitted} (hint : (nodeAt nodes cur).isInternal = true) (hw : m.w < d) (hp : 8 * j ≤ b)
    (hlen : (b + 7) / 8 = j + bs.length) :
    walkFrom (treeEntries nodes) (2 * n - 1) d b (streamBits bs) { p := 8 * j, cur := cur, w := m.w, rev := m.rev } =
      asWalk (seqLoop table (n - 1) d b bs j (nodeAt nodes cur).value.toNat m) := by
  induction bs generalizing j cur m with
  | nil => simp only [streamBits, List.flatMap_nil, walkFrom, walkSymbols, seqLoop, if_pos hw, asWalk]
  | cons v bs ih =>
    rw [List.length_cons] at hlen
    have slot := slots _ (t.value_lt hint) v
    have emit := emitSlot_slotFn nodes d b j (nodeAt nodes cur).value.toNat v m
    have next : (slotFn (treeEntries nodes) (nodeAt nodes cur).value.toNat v).next =
        (nodeAt nodes (walkEnd nodes v bitIndices cur)).value.toNat := by
      rw [slotFn_treeEntries, t.nodeOfState_value hint]
    rw [t.nodeOfState_value hint] at emit
    have byte := walkFrom_downFrom t h2 v (streamBits bs) (r := 8) le_rfl (d := d) (b := b) (j := j) hint hw (by omega)
    have walked := t.walkEnd_isInternal h2 v bitIndices hint
    simp only [seqLoop, if_pos hw, slot, emit, next]
    refine byte.trans ?_
    change afterByte nodes n d b j (walkEnd nodes v bitIndices cur) (streamBits bs)
      (emitSymbols d b j (symbolsOut nodes v bitIndices cur) m) = _
    cases emitSymbols d b j (symbolsOut nodes v bitIndices cur) m with
    | error e => rfl
    | ok m' =>
      simp only [afterByte]
      by_cases hw' : m'.w < d
      · rw [if_pos hw']
        by_cases hp' : 8 * (j + 1) ≤ b
        · rw [if_pos hp']
          exact ih walked hw' hp' (by omega)
        · obtain rfl := List.eq_nil_of_length_eq_zero (show bs.length = 0 by omega)
          rw [if_neg hp', seqLoop, if_pos hw']
          rfl
      · rw [if_neg hw']
        have out : seqLoop table (n - 1) d b bs (j + 1) (nodeAt nodes (walkEnd nodes v bitIndices cur)).value.toNat m' =
            .ok ((nodeAt nodes (walkEnd nodes v bitIndices cur)).value.toNat, m') := by
          cases bs <;> simp only [seqLoop, if_neg hw']
        rw [out]
        rfl

/-- The walk of R130 and SEQDECODE on a bitstream of L = ceil(B/8) bytes. -/
theorem treeWalk_eq_seqLoop {nodes : List TreeNode} {n : Nat} (t : LaidTree nodes n) (h2 : 2 ≤ n) {table : Memory}
    (slots : ∀ st < n - 1, ∀ v : Byte, readSlot table (n - 1) st v = .ok (slotFn (treeEntries nodes) st v)) {d b : Nat}
    {bs : List Byte} (hlen : bs.length = (b + 7) / 8) :
    treeWalk (treeEntries nodes) (2 * n - 1) d b (streamBits bs) = asWalk (seqLoop table (n - 1) d b bs 0 0 Emitted.start) := by
  obtain ⟨rootInternal, rootValue⟩ := t.root h2
  rcases Nat.eq_zero_or_pos d with rfl | hd
  · have walk : walkSymbols (treeEntries nodes) (2 * n - 1) 0 b (streamBits bs) { p := 0, cur := 0, w := 0, rev := [] } =
        .ok ({ p := 0, cur := 0, w := 0, rev := [] }, streamBits bs) := by
      cases streamBits bs <;> rfl
    have loop : seqLoop table (n - 1) 0 b bs 0 0 Emitted.start = .ok (0, Emitted.start) := by
      cases bs <;> rfl
    rw [loop]
    simp only [treeWalk, walk, lt_irrefl, if_false, nodeAt_treeEntries, rootValue, asWalk, Emitted.start]
  · rw [treeWalk_eq_walkFrom hd]
    have := walkFrom_eq_seqLoop t h2 slots (d := d) (b := b) bs (j := 0) (m := Emitted.start) rootInternal hd (Nat.zero_le _)
      (by omega)
    rwa [rootValue] at this

end Machine
end Sys2Proof
end

section
/-! TREE_DECODE and DECODE on a packet's own tree and tables: the cross-check (44_decode.md §4), E_CORRUPT (60_exceptions.md §3) and
DECODE_PACKET (45_control.md). -/

namespace Sys2Proof
namespace Machine

/-! ## With the tree and the tables ready -/

namespace State.TablesReady

variable {s : State} (h : s.TablesReady)

include h

theorem states_pos : 0 < s.counts.states.toNat := by
  have := h.atLeastTwo
  have := h.states
  omega

theorem slotsValid : SlotsValid s.table s.counts.states.toNat := by
  rw [h.states]
  exact fun st hst v => ⟨_, h.slots st hst v⟩

/-- The cross-check of R131: the walk of TREE_MEM and the loop over TABLE_MEM. -/
theorem treeWalk_eq : treeWalk s.tree.nodes s.counts.nodes.toNat s.decodedLen s.bitCount (streamBits s.stream) = asWalk (seqDecode s) := by
  rw [h.nodes, h.nodeCount, seqDecode, h.states]
  exact treeWalk_eq_seqLoop h.laidTree h.atLeastTwo h.slots s.stream_length

theorem seqDecode_error {e : Ending} (he : seqDecode s = .error e) : ∃ w, e = lengthEnding w :=
  seqLoop_error_of_slotsValid h.slotsValid (Emitted.start_fits _ _) h.states_pos he

variable {k : Nat} (hk : s.badCount k = false) (hp : s.status.phase = .tables)

include hk hp

theorem decodeRun_of_ok {fin : Nat} {m : Emitted} (hs : seqDecode s = .ok (fin, m)) :
    ∃ c, decodeRun k s = succeed (((s.storeDecoded m.rev.reverse (decodedRegs s m.bits fin)).setConv
      { start := startRegs s.streamLen k, conv := c }).setWork Workspace.none) := by
  obtain ⟨cs, hcs⟩ := speculate_of_slotsValid h.slotsValid h.states_pos (s.segments k)
  exact decodeRun_of_seqDecode_ok hk hp hcs hs

theorem decodeRun_of_error {e : Ending} (hs : seqDecode s = .error e) :
    ∃ c, decodeRun k s = (failDecode (s.setConv { start := startRegs s.streamLen k, conv := c }) e).releaseWork := by
  obtain ⟨cs, hcs⟩ := speculate_of_slotsValid h.slotsValid h.states_pos (s.segments k)
  obtain ⟨w, rfl⟩ := h.seqDecode_error hs
  exact decodeRun_of_seqDecode_error hk hp hcs hs rfl

/-- DECODE ends with success or E_LENGTH. -/
theorem decodeRun_ending_ne_corrupt : (decodeRun k s).ending.code ≠ .corrupt := by
  cases hs : seqDecode s with
  | ok r =>
    obtain ⟨c, run⟩ := h.decodeRun_of_ok hk hp hs
    rw [run]
    exact nofun
  | error e =>
    obtain ⟨c, run⟩ := h.decodeRun_of_error hk hp hs
    obtain ⟨w, rfl⟩ := h.seqDecode_error hs
    rw [run]
    exact nofun

end State.TablesReady

/-- TREE_DECODE ends with success or E_LENGTH. -/
theorem State.TreeReady.treeDecodeRun_ending_ne_corrupt {s : State} (h : s.TreeReady) : (treeDecodeRun s).ending.code ≠ .corrupt := by
  rcases treeDecodeRun_cases s with ⟨w, fin, -, -, run⟩ | ⟨e, -, he, run⟩ | ⟨-, run⟩ <;> rw [run]
  · exact nofun
  · rw [h.nodes, h.nodeCount] at he
    obtain ⟨w, rfl⟩ := treeWalk_error_length h.laidTree h.atLeastTwo he
    exact nofun
  · exact nofun

/-- What DECODE and TREE_DECODE leave alike. -/
structure CommandResult.Alike (d : Nat) (r r' : CommandResult) : Prop where
  ending : r.ending = r'.ending
  results : r.state.results = r'.state.results
  output : r.ending.code = .ok → r.state.out.bytes 0 d = r'.state.out.bytes 0 d

theorem State.TablesReady.decodeRun_alike_treeDecodeRun {s : State} (h : s.TablesReady) {k : Nat} (hk : s.badCount k = false)
    (hp : s.status.phase = .tables) : (decodeRun k s).Alike s.decodedLen (treeDecodeRun s) := by
  have tree : s.phaseAtLeast .tree = true := State.phaseAtLeast_mono (by decide) ((s.phaseAtLeast_tables_iff).2 hp)
  have walk := h.treeWalk_eq
  cases hs : seqDecode s with
  | ok r =>
    obtain ⟨fin, m⟩ := r
    rw [hs] at walk
    obtain ⟨c, run⟩ := h.decodeRun_of_ok hk hp hs
    rw [run, treeDecodeRun_of_ok tree walk]
    exact ⟨rfl, rfl, fun _ => rfl⟩
  | error e =>
    rw [hs] at walk
    obtain ⟨c, run⟩ := h.decodeRun_of_error hk hp hs
    obtain ⟨w, rfl⟩ := h.seqDecode_error hs
    rw [run, treeDecodeRun_of_error tree walk]
    exact ⟨rfl, rfl, nofun⟩

/-- Settles O41: SEQDECODE's outcome is the walk's. -/
theorem treeDecodeAgreesWithDecode : Obligations.TreeDecodeAgreesWithDecode := by
  intro s t₁ t₂ k hinv hp h1 hmax ht₁ ht₂
  obtain rfl := exec_eq_next.1 ht₁
  obtain rfl := exec_eq_next.1 ht₂
  have ready := hinv.tablesReady ((s.phaseAtLeast_tables_iff).2 hp)
  obtain ⟨ending, results, output⟩ := ready.decodeRun_alike_treeDecodeRun (State.badCount_of_inRange h1 hmax) hp
  refine ⟨results, ?_, ?_, output⟩
  · exact congrArg Ending.code ending
  · exact congrArg Ending.info ending

/-! ## DECODE_PACKET's own tables -/

/-- The preparation of a packet that passes PARSE makes the tree and the tables ready. -/
theorem State.preparePacket_tablesReady {s : State} {h : PacketHeader} (hh : readHeader s = .ok h) : (s.preparePacket h).TablesReady := by
  obtain ⟨-, -, h2, h12, -⟩ := readHeader_ok hh
  have symbols : (s.preparePacket h).symbols = s.packetSymbols h.nsym := State.latchHeader_symbols h12
  have len : (s.packetSymbols h.nsym).length = h.nsym := by rw [State.packetSymbols, List.length_map, List.length_range]
  have states : (s.preparePacket h).counts.states.toNat = h.nsym - 1 := by
    show (BitVec.ofNat 32 (h.nsym - 1)).toNat = h.nsym - 1
    rw [BitVec.toNat_ofNat, Nat.mod_eq_of_lt (by omega)]
  have laid := treeOf_laidTree (symbols := s.packetSymbols h.nsym) (by omega) (by omega)
  rw [len] at laid
  have image : (s.preparePacket h).table.bytes 0 Config.tableBytes =
      tableImage (treeEntries (treeOf (s.packetSymbols h.nsym))) (h.nsym - 1) := by
    have written := s.table.bytes_put_self 0 (tableImage (treeEntries (treeOf (s.packetSymbols h.nsym))) (h.nsym - 1))
    rw [tableImage_length] at written
    rw [← states] at written ⊢
    exact written
  refine ⟨⟨?atLeastTwo, ?atMostTwelve, ?treeMem, ?nodeCount⟩, ?stateCount, ?slots⟩
  case atLeastTwo => rwa [symbols, len]
  case atMostTwelve => rwa [symbols, len]
  case treeMem =>
    rw [symbols]
    exact nodes_put_treeImage s.tree (packetSymbols_tree_length s h12)
  case nodeCount =>
    rw [symbols, len]
    show (BitVec.ofNat 32 (2 * h.nsym - 1)).toNat = 2 * h.nsym - 1
    rw [BitVec.toNat_ofNat, Nat.mod_eq_of_lt (by omega)]
  case stateCount => rw [symbols, len, states]
  case slots =>
    rw [symbols, len]
    exact fun st hst v => readSlot_of_tableImage laid h2 h12 image hst v

/-- Settles O49: the tables and the tree that a command decodes with are those of its symbol table. -/
theorem corruptIsUnreachable : Obligations.CorruptIsUnreachable := by
  intro i s t hinv ht
  obtain rfl := exec_eq_next.1 ht
  change (runOf i s).ending.code ≠ .corrupt
  cases i with
  | nop => exact nofun
  | clear => exact nofun
  | parse =>
    rcases parseRun_cases s with ⟨h, -, run⟩ | ⟨e, he, run⟩ <;> rw [runOf, run]
    · exact nofun
    · rcases readHeader_error he with hc | hc | hc <;> simp [hc]
  | buildTree =>
    rw [runOf]
    cases hp : s.phaseAtLeast .parsed with
    | true => rw [buildTreeRun_of_parsed hp]; exact nofun
    | false => rw [buildTreeRun_of_early hp]; exact nofun
  | genTables =>
    rw [runOf, genTablesRun]
    split <;> exact nofun
  | heapOrder =>
    rw [runOf]
    cases hp : s.phaseAtLeast .parsed with
    | true => rw [heapOrderRun_of_parsed hp]; exact nofun
    | false => rw [heapOrderRun_of_early hp]; exact nofun
  | treeDecode =>
    rw [runOf]
    cases hp : s.phaseAtLeast .tree with
    | true => exact (hinv.treeReady hp).treeDecodeRun_ending_ne_corrupt
    | false => rw [treeDecodeRun_of_early hp]; exact nofun
  | decode k =>
    rw [runOf]
    cases hk : s.badCount k with
    | true => simp [decodeRun, hk, raiseBadArg]
    | false =>
      by_cases hp : s.status.phase = .tables
      · exact (hinv.tablesReady ((s.phaseAtLeast_tables_iff).2 hp)).decodeRun_ending_ne_corrupt hk hp
      · rw [decodeRun_of_early hk hp]
        exact nofun
  | decodePacket k =>
    rw [runOf]
    cases hk : s.badCount k with
    | true => simp [decodePacketRun, hk, raiseBadArg]
    | false =>
      cases hh : readHeader s with
      | ok h =>
        rw [decodePacketRun_of_ok hk hh]
        exact (State.preparePacket_tablesReady hh).decodeRun_ending_ne_corrupt hk rfl
      | error e =>
        rw [decodePacketRun_of_error hk hh]
        rcases readHeader_error hh with hc | hc | hc <;> simp [hc]

/-- A walk that succeeds is SEQDECODE's. -/
theorem asWalk_eq_ok {r : Except Ending (Nat × Emitted)} {w : TreeWalk} {fin : Nat} (h : asWalk r = .ok (w, fin)) :
    ∃ m, r = .ok (fin, m) ∧ w.p = m.bits ∧ w.rev = m.rev := by
  match r, h with
  | .ok (fin', m), h =>
    obtain ⟨rfl, rfl⟩ := Prod.mk.inj (Except.ok.inj h)
    exact ⟨m, rfl, rfl, rfl⟩

/-- Settles O23: DECODE on the packet's own tables, which gives what the walk of its own tree gives. -/
theorem decodePacketDecodes : Obligations.DecodePacketDecodes := by
  intro s k h w fin h1 hmax hh hwalk
  have hk := State.badCount_of_inRange h1 hmax
  have ready := State.preparePacket_tablesReady hh
  obtain ⟨hAt, -, h2, h12, -⟩ := readHeader_ok hh
  obtain ⟨-, hbits, -, hdec⟩ := headerAt_lt s (s.le32 8)
  rw [← hAt] at hbits hdec
  have bits : (s.preparePacket h).bitCount = h.bits := by
    show (BitVec.ofNat 32 h.bits).toNat = h.bits
    rw [BitVec.toNat_ofNat, Nat.mod_eq_of_lt hbits]
  have decLen : (s.preparePacket h).decodedLen = h.decLen := by
    show (BitVec.ofNat 32 h.decLen).toNat = h.decLen
    rw [BitVec.toNat_ofNat, Nat.mod_eq_of_lt hdec]
  have count : (s.preparePacket h).symbolCount = h.nsym := by
    show (BitVec.ofNat 32 h.nsym).toNat = h.nsym
    rw [BitVec.toNat_ofNat, Nat.mod_eq_of_lt (by omega)]
  have stream : (s.preparePacket h).stream = s.pkt.bytes (24 + 8 * h.nsym) ((h.bits + 7) / 8) := by
    rw [State.stream, State.streamBase, State.streamLen, bits, count]
    rfl
  have symbols : (s.preparePacket h).symbols = s.packetSymbols h.nsym := State.latchHeader_symbols h12
  have len : (s.packetSymbols h.nsym).length = h.nsym := by rw [State.packetSymbols, List.length_map, List.length_range]
  have walk := ready.treeWalk_eq
  rw [ready.nodes, ready.nodeCount, symbols, len, bits, decLen, stream] at walk
  obtain ⟨m, hs, hp, hrev⟩ := asWalk_eq_ok (walk.symm.trans hwalk)
  obtain ⟨c, run⟩ := ready.decodeRun_of_ok hk rfl hs
  have outLen : m.rev.reverse.length = h.decLen := by
    have fits := (treeWalk_ok hwalk).1
    rw [List.length_reverse, ← hrev]
    exact fits
  refine ⟨_, exec_next _ s, ?_⟩
  rw [runOf, decodePacketRun_of_ok hk hh, run, hp, hrev]
  refine ⟨rfl, rfl, rfl, rfl, ?_, ?_, fun a ha => ?_, rfl, rfl, rfl, rfl⟩
  · rfl
  · exact outLen ▸ s.out.bytes_put_self 0 m.rev.reverse
  · exact s.out.byte_put_outside 0 m.rev.reverse (.inr (by rw [outLen]; omega))

end Machine
end Sys2Proof
end

section
/-! What TREE_DECODE's walk reads: the code words of a message (30_encoding.md §2, 42_tree.md R100), and no bit from bit B on (20_memory.md
§4). -/

namespace Sys2Proof
namespace Machine

/-! ## Code words -/

/-- From node i the bits lead to the leaf of symbol `sym`: the walk outputs it and is back at the root. -/
def Spells (nodes : List TreeNode) (n i : Nat) (sym : Byte) (bits : List Bool) : Prop :=
  ∀ (d b : Nat) (rest : List Bool) (t : TreeWalk), t.cur = i → t.w < d → t.p + bits.length ≤ b →
    walkSymbols (treeEntries nodes) (2 * n - 1) d b (bits ++ rest) t =
      walkSymbols (treeEntries nodes) (2 * n - 1) d b rest { p := t.p + bits.length, cur := 0, w := t.w + 1, rev := sym :: t.rev }

/-- The walk of a message's code words, one after the other. -/
theorem walkSymbols_message {nodes : List TreeNode} {n : Nat} {msg : List (Byte × List Bool)} (hmsg : ∀ c ∈ msg, Spells nodes n 0 c.1 c.2)
    {b : Nat} (rest : List Bool) {p w : Nat} {rev : List Byte} (hp : p + (msg.flatMap Prod.snd).length ≤ b) :
    walkSymbols (treeEntries nodes) (2 * n - 1) (w + msg.length) b (msg.flatMap Prod.snd ++ rest)
        { p := p, cur := 0, w := w, rev := rev } =
      .ok ({ p := p + (msg.flatMap Prod.snd).length, cur := 0, w := w + msg.length, rev := (msg.map Prod.fst).reverse ++ rev }, rest) := by
  induction msg generalizing p w rev with
  | nil =>
    have out : ¬ w + ([] : List (Byte × List Bool)).length < w + ([] : List (Byte × List Bool)).length := lt_irrefl _
    cases rest <;> simp only [List.flatMap_nil, List.nil_append, walkSymbols, List.length_nil, Nat.add_zero, lt_irrefl, if_false,
      List.map_nil, List.reverse_nil]
  | cons c msg ih =>
    rw [List.flatMap_cons, List.length_append] at hp
    have spells := hmsg c List.mem_cons_self (w + (c :: msg).length) b (msg.flatMap Prod.snd ++ rest)
      { p := p, cur := 0, w := w, rev := rev } rfl (by simp) (show p + c.2.length ≤ b by omega)
    have next := ih (fun x hx => hmsg x (List.mem_cons_of_mem _ hx)) (p := p + c.2.length) (w := w + 1) (rev := c.1 :: rev) (by omega)
    rw [List.flatMap_cons, List.append_assoc, spells, List.length_cons, Nat.add_comm msg.length 1, ← Nat.add_assoc, next]
    simp [List.length_append, Nat.add_assoc]

section Laid

variable {nodes : List TreeNode} {n : Nat} (t : LaidTree nodes n)

include t

theorem spells_leaf {i : Nat} (hint : (nodeAt nodes i).isInternal = true) {bit : Bool}
    (hleaf : (nodeAt nodes (childOf nodes i bit)).isLeaf = true) : Spells nodes n i (nodeAt nodes (childOf nodes i bit)).value [bit] := by
  rintro d b rest w rfl hw hp
  rw [List.length_singleton] at hp
  rw [List.singleton_append, walkSymbols_cons t hw (by omega) hint, if_pos hleaf]
  rfl

theorem spells_cons {i : Nat} (hint : (nodeAt nodes i).isInternal = true) {bit : Bool}
    (hleaf : (nodeAt nodes (childOf nodes i bit)).isLeaf = false) {sym : Byte} {bits : List Bool}
    (h : Spells nodes n (childOf nodes i bit) sym bits) : Spells nodes n i sym (bit :: bits) := by
  rintro d b rest w rfl hw hp
  rw [List.length_cons] at hp
  have onwards := h d b rest { w with p := w.p + 1, cur := childOf nodes w.cur bit } rfl hw (show w.p + 1 + bits.length ≤ b by omega)
  rw [List.cons_append, walkSymbols_cons t hw (by omega) hint, if_neg (by rw [hleaf]; exact Bool.false_ne_true), onwards,
    List.length_cons, Nat.add_comm bits.length 1, ← Nat.add_assoc]

/-- The words below an internal node, after its own path, spell their symbols. -/
theorem codesBelow_spells (fuel : Nat) {i : Nat} (hint : (nodeAt nodes i).isInternal = true) (path : List Bool)
    {c : Byte × List Bool} (hc : c ∈ codesBelow nodes fuel i path) : ∃ bits, c.2 = path ++ bits ∧ Spells nodes n i c.1 bits := by
  induction fuel generalizing i path with
  | zero => cases hc
  | succ fuel ih =>
    have below : ∀ bit, c ∈ codesBelow nodes fuel (childOf nodes i bit) (path ++ [bit]) →
        ∃ bits, c.2 = path ++ bits ∧ Spells nodes n i c.1 bits := fun bit hmem => by
      obtain ⟨-, -, hleaf | ⟨hleaf, internal⟩⟩ := t.child_cases hint bit
      · cases fuel with
        | zero => cases hmem
        | succ fuel =>
          rw [codesBelow, if_pos hleaf, List.mem_singleton] at hmem
          exact ⟨[bit], by rw [hmem], by rw [hmem]; exact spells_leaf t hint hleaf⟩
      · obtain ⟨bits, hbits, spells⟩ := ih internal (path ++ [bit]) hmem
        exact ⟨bit :: bits, by rw [hbits, List.append_assoc, List.singleton_append], spells_cons t hint hleaf spells⟩
    have notLeaf := TreeNode.not_isLeaf_of_isInternal hint
    simp only [codesBelow, notLeaf, hint, if_true, Bool.false_eq_true, if_false] at hc
    rcases List.mem_append.1 hc with hc | hc
    · exact below false hc
    · exact below true hc

theorem codeWords_spell (h2 : 2 ≤ n) {c : Byte × List Bool} (hc : c ∈ codeWords nodes) : Spells nodes n 0 c.1 c.2 := by
  obtain ⟨bits, hbits, spells⟩ := codesBelow_spells t nodes.length (t.root h2).1 [] hc
  rw [hbits]
  exact spells

/-- The second loop of R130 changes the final state only. -/
theorem treeWalk_map_fst (h2 : 2 ≤ n) (d b : Nat) (bits : List Bool) :
    (treeWalk (treeEntries nodes) (2 * n - 1) d b bits).map Prod.fst =
      (walkSymbols (treeEntries nodes) (2 * n - 1) d b bits { p := 0, cur := 0, w := 0, rev := [] }).map Prod.fst := by
  rcases walkSymbols_error t h2 (d := d) (b := b) (bits := bits) (w := { p := 0, cur := 0, w := 0, rev := [] }) (t.root h2).1 with
    ⟨w', rest, ok, hint⟩ | ⟨x, error⟩
  · obtain ⟨cur', finish⟩ := finishByte_isOk t h2 (bits := rest) (p := w'.p) hint
    by_cases hd : 0 < d
    · simp only [treeWalk, ok, finish, if_pos hd]
      rfl
    · simp only [treeWalk, ok, if_neg hd]
      rfl
  · simp only [treeWalk, error]
    rfl

end Laid

theorem exists_of_map_fst_eq_ok {α β : Type} {x : Except Ending (α × β)} {a : α} (h : x.map Prod.fst = .ok a) :
    ∃ b, x = .ok (a, b) := by
  match x, h with
  | .ok (a', b), h => exact ⟨b, by rw [← Except.ok.inj h]⟩

/-- Settles O42: each code word spells its symbol, and the walk is back at the root after it. -/
theorem encodedMessageDecodes : Obligations.EncodedMessageDecodes := by
  intro s msg hinv hp hmsg hlen hbits
  have tree : s.phaseAtLeast .tree = true := decide_eq_true hp
  have ready := hinv.treeReady tree
  obtain ⟨rest, hrest⟩ := hbits.trans (List.take_prefix _ _)
  have total : (msg.flatMap Prod.snd).length ≤ s.bitCount := hbits.length_le.trans (List.length_take_le _ _)
  have message := walkSymbols_message (b := s.bitCount) (fun c hc => codeWords_spell ready.laidTree ready.atLeastTwo (hmsg c hc)) rest
    (p := 0) (w := 0) (rev := []) (by omega)
  have walk := treeWalk_map_fst ready.laidTree ready.atLeastTwo s.decodedLen s.bitCount (streamBits s.stream)
  rw [Nat.zero_add, Nat.zero_add, List.append_nil, hrest, hlen] at message
  rw [message] at walk
  obtain ⟨fin, walk⟩ := exists_of_map_fst_eq_ok walk
  rw [← ready.nodes, ← ready.nodeCount] at walk
  refine ⟨_, exec_next .treeDecode s, ?_⟩
  rw [runOf, treeDecodeRun_of_ok tree walk, List.reverse_reverse]
  refine ⟨rfl, ?_, rfl⟩
  have output := s.out.bytes_put_self 0 (msg.map Prod.fst)
  rw [List.length_map, hlen] at output
  exact output

/-! ## Pad bits (20_memory.md §4) -/

theorem walkSymbols_of_out {nodes : List TreeNode} {count d b : Nat} {t : TreeWalk} (hw : ¬ t.w < d) (bits : List Bool) :
    walkSymbols nodes count d b bits t = .ok (t, bits) := by
  cases bits <;> simp only [walkSymbols, if_neg hw]

theorem walkSymbols_at_end {nodes : List TreeNode} {count d b : Nat} {t : TreeWalk} (hw : t.w < d) (hp : t.p = b) (bits : List Bool) :
    walkSymbols nodes count d b bits t = .error (lengthEnding t.w) := by
  cases bits <;> simp only [walkSymbols, if_pos hw, if_pos hp]

/-- The first loop of R130 reads the first B bits only. -/
theorem walkSymbols_take {nodes : List TreeNode} {count d b : Nat} (bits : List Bool) {t : TreeWalk} (hp : t.p ≤ b) :
    (walkSymbols nodes count d b bits t).map Prod.fst = (walkSymbols nodes count d b (bits.take (b - t.p)) t).map Prod.fst := by
  induction bits generalizing t with
  | nil => rw [List.take_nil]
  | cons bit bits ih =>
    by_cases hw : t.w < d
    · rcases Nat.eq_or_lt_of_le hp with hend | hlt
      · rw [walkSymbols_at_end hw hend, walkSymbols_at_end hw hend]
      · rw [show b - t.p = b - (t.p + 1) + 1 by omega, List.take_succ_cons]
        simp only [walkSymbols, if_pos hw, if_neg (Nat.ne_of_lt hlt)]
        cases checkedChild nodes count t.cur bit with
        | error e => rfl
        | ok child =>
          by_cases hleaf : (nodeAt nodes child).isLeaf = true
          · simp only [if_pos hleaf]
            exact ih (t := { p := t.p + 1, cur := 0, w := t.w + 1, rev := (nodeAt nodes child).value :: t.rev }) hlt
          · simp only [if_neg hleaf]
            exact ih (t := { t with p := t.p + 1, cur := child }) hlt
    · rw [walkSymbols_of_out hw, walkSymbols_of_out hw]
      rfl

/-- What PadBitsDoNotMatter asks of two outcomes. -/
structure CommandResult.SameOutcome (d : Nat) (r r' : CommandResult) : Prop where
  outCount : r.state.results.outCount = r'.state.results.outCount
  bitsUsed : r.state.results.bitsUsed = r'.state.results.bitsUsed
  ending : r.ending = r'.ending
  output : r.ending.code = .ok → r.state.out.bytes 0 d = r'.state.out.bytes 0 d

theorem CommandResult.SameOutcome.of_alike {d : Nat} {r r' q q' : CommandResult} (h : q.SameOutcome d q') (hr : r.Alike d q)
    (hr' : r'.Alike d q') : r.SameOutcome d r' where
  outCount := by rw [hr.results, hr'.results, h.outCount]
  bitsUsed := by rw [hr.results, hr'.results, h.bitsUsed]
  ending := by rw [hr.ending, hr'.ending, h.ending]
  output hok := by
    have okq : q.ending.code = .ok := hr.ending ▸ hok
    rw [hr.output hok, h.output okq, hr'.output (by rw [hr'.ending, ← h.ending]; exact okq)]

/-- Two refusals with one code and one ERR_INFO. -/
theorem sameOutcome_of_raiseErr {s s' : State} (d : Nat) {code : ErrCode} (hcode : code ≠ .ok) (info : Word) (h : s.results = s'.results) :
    (raiseErr s code info).SameOutcome d (raiseErr s' code info) :=
  ⟨congrArg Results.outCount h, congrArg Results.bitsUsed h, rfl, fun hok => absurd hok hcode⟩

section PadBits

variable {s s' : State} (hhdr : s.hdr = s'.hdr) (hsym : s.symbols = s'.symbols)
  (hbits : (streamBits s.stream).take s.bitCount = (streamBits s'.stream).take s.bitCount)

include hhdr hsym hbits

/-- The walks of two packets with one table and the same first B bits. -/
theorem State.TreeReady.treeWalk_map_fst_congr (h : s.TreeReady) (h' : s'.TreeReady) :
    (treeWalk s.tree.nodes s.counts.nodes.toNat s.decodedLen s.bitCount (streamBits s.stream)).map Prod.fst =
      (treeWalk s'.tree.nodes s'.counts.nodes.toNat s'.decodedLen s'.bitCount (streamBits s'.stream)).map Prod.fst := by
  have dec : s'.decodedLen = s.decodedLen := by rw [State.decodedLen, State.decodedLen, hhdr]
  have bits : s'.bitCount = s.bitCount := by rw [State.bitCount, State.bitCount, hhdr]
  rw [h.nodes, h.nodeCount, h'.nodes, h'.nodeCount, ← hsym, dec, bits, treeWalk_map_fst h.laidTree h.atLeastTwo,
    treeWalk_map_fst h.laidTree h.atLeastTwo, walkSymbols_take (streamBits s.stream) (Nat.zero_le _),
    walkSymbols_take (streamBits s'.stream) (Nat.zero_le _), Nat.sub_zero, hbits]

theorem State.TreeReady.treeDecodeRun_sameOutcome (h : s.TreeReady) (h' : s'.TreeReady) (hp : s.phaseAtLeast .tree = true)
    (hp' : s'.phaseAtLeast .tree = true) : (treeDecodeRun s).SameOutcome s.decodedLen (treeDecodeRun s') := by
  have walks := h.treeWalk_map_fst_congr hhdr hsym hbits h'
  cases hw : treeWalk s.tree.nodes s.counts.nodes.toNat s.decodedLen s.bitCount (streamBits s.stream) with
  | ok r =>
    obtain ⟨w, fin⟩ := r
    rw [hw] at walks
    obtain ⟨fin', hw'⟩ := exists_of_map_fst_eq_ok walks.symm
    have len : w.rev.reverse.length = s.decodedLen := by
      rw [List.length_reverse]
      exact (treeWalk_ok hw).1
    rw [treeDecodeRun_of_ok hp hw, treeDecodeRun_of_ok hp' hw']
    refine ⟨congrArg Header.decLen hhdr, rfl, rfl, fun _ => ?_⟩
    show (s.out.put 0 w.rev.reverse).bytes 0 s.decodedLen = (s'.out.put 0 w.rev.reverse).bytes 0 s.decodedLen
    rw [← len, Memory.bytes_put_self, Memory.bytes_put_self]
  | error e =>
    rw [hw] at walks
    cases hw' : treeWalk s'.tree.nodes s'.counts.nodes.toNat s'.decodedLen s'.bitCount (streamBits s'.stream) with
    | ok r => rw [hw'] at walks; cases walks
    | error e' =>
      rw [hw'] at walks
      obtain rfl := Except.error.inj walks
      rw [treeDecodeRun_of_error hp hw, treeDecodeRun_of_error hp' hw']
      refine ⟨rfl, rfl, rfl, fun hok => ?_⟩
      rcases treeWalk_error_code hw with hc | hc <;> simp [failDecode, hc] at hok

end PadBits

/-- Settles O45: the walk of R130 reads the first B bits only, and DECODE gives what the walk gives. -/
theorem padBitsDoNotMatter : Obligations.PadBitsDoNotMatter := by
  intro i s s' t t' hinv hinv' hparams hphase hhdr hsym hres hbits hi ht ht'
  have phaseAt : ∀ p, s'.phaseAtLeast p = s.phaseAtLeast p := fun p => by rw [State.phaseAtLeast, State.phaseAtLeast, hphase]
  have walk : s.phaseAtLeast .tree = true → (treeDecodeRun s).SameOutcome s.decodedLen (treeDecodeRun s') := fun hp =>
    (hinv.treeReady hp).treeDecodeRun_sameOutcome hhdr hsym hbits (hinv'.treeReady ((phaseAt _).trans hp)) hp ((phaseAt _).trans hp)
  have refused : (raiseSeq s).SameOutcome s.decodedLen (raiseSeq s') := by
    rw [raiseSeq, raiseSeq, ← hphase]
    exact sameOutcome_of_raiseErr _ (by decide) _ hres
  suffices same : (runOf i s).SameOutcome s.decodedLen (runOf i s') by
    obtain rfl := exec_eq_next.1 ht
    obtain rfl := exec_eq_next.1 ht'
    exact ⟨same.outCount, same.bitsUsed, congrArg Ending.code same.ending, congrArg Ending.info same.ending, same.output⟩
  rcases hi with rfl | ⟨k, rfl⟩ <;> rw [runOf, runOf]
  · cases hp : s.phaseAtLeast .tree with
    | true => exact walk hp
    | false => rwa [treeDecodeRun_of_early hp, treeDecodeRun_of_early ((phaseAt _).trans hp)]
  · have bad : s'.badCount k = s.badCount k := by rw [State.badCount, State.badCount, hparams]
    have dec : s'.decodedLen = s.decodedLen := by rw [State.decodedLen, State.decodedLen, hhdr]
    cases hk : s.badCount k with
    | true =>
      simp only [decodeRun, bad, hk, if_true]
      exact sameOutcome_of_raiseErr _ (by decide) _ hres
    | false =>
      have hk' := bad.trans hk
      by_cases hp : s.status.phase = .tables
      · have ready := hinv.tablesReady ((s.phaseAtLeast_tables_iff).2 hp)
        have ready' := hinv'.tablesReady ((s'.phaseAtLeast_tables_iff).2 (hphase ▸ hp))
        have alike' := ready'.decodeRun_alike_treeDecodeRun hk' (hphase ▸ hp)
        rw [dec] at alike'
        exact (walk (State.phaseAtLeast_mono (by decide) ((s.phaseAtLeast_tables_iff).2 hp))).of_alike
          (ready.decodeRun_alike_treeDecodeRun hk hp) alike'
      · rwa [decodeRun_of_early hk hp, decodeRun_of_early hk' (hphase ▸ hp)]

end Machine
end Sys2Proof
end
